-- ==== Sys2Proof/Word.lean ====
section
/-! DEFINITION. The words the engine computes on.

Rules R7 and R8 of spec/00_scope.md: every value is unsigned, bit 0 is the least significant bit, `+` is addition modulo
2^32. The operators of rules R400 (ADD), R401 (AND), R402 (OR), R403 (XOR) and R404 (NOT) of spec/40_word_ops.md are the
bit vector operators `+`, `&&&`, `|||`, `^^^` and `~~~`; rotation and shift stand in Machine/WordOps.lean. -/

namespace Sys2Proof

/-- A 32-bit datapath word (R6: word width 32 bits, unsigned). -/
abbrev Word := BitVec 32

/-- A message byte. -/
abbrev Byte := BitVec 8

/-- The 40-bit word presented on the command port (R300). -/
abbrev CommandWord := BitVec 40

end Sys2Proof
end

