-- ==== Sys2Proof/Machine/Operands.lean ====
section
/-! DEFINITION. Operand assembly of PUSH (R302, R303 of spec/30_encoding.md) and the endianness converter (R450 to R454 of
spec/41_byte_order.md). Every conversion is big-endian and fixed (R203). -/

namespace Sys2Proof.Machine

/-- R302: the byte count of a PUSH, `n = zext_3(NBM1) + 1`. -/
def pushCount (nbm1 : BitVec 2) : Nat := nbm1.toNat + 1

/-- R303: `byte(k) = DATA[31 - 8k : 24 - 8k]`. -/
def dataByte (data : Word) (k : Nat) : Byte := data.extractLsb' (24 - 8 * k) 8

/-- R302, R303: the message bytes of a PUSH, `byte(0)` first. The bytes `byte(k)` for `k ≥ n` are left out (R304). -/
def pushBytes (nbm1 : BitVec 2) (data : Word) : List Byte :=
  (List.range (pushCount nbm1)).map (dataByte data)

/-- R450, BE32: four bytes to one word, the earliest byte most significant. -/
def be32 (b0 b1 b2 b3 : Byte) : Word :=
  b0.setWidth 32 <<< 24 ||| b1.setWidth 32 <<< 16 ||| b2.setWidth 32 <<< 8 ||| b3.setWidth 32

/-- R451, BYTES32: one word to four bytes, earliest first. -/
def bytes32 (w : Word) : List Byte :=
  [w.extractLsb' 24 8, w.extractLsb' 16 8, w.extractLsb' 8 8, w.extractLsb' 0 8]

/-- Byte `k` of the 64-bit length, `L[8k+7 : 8k]` (R652). -/
def lengthByte (v : BitVec 64) (k : Nat) : Byte := v.extractLsb' (8 * k) 8

/-- R452, BYTES64: the 64-bit length to eight bytes, most significant first. -/
def bytes64 (v : BitVec 64) : List Byte :=
  [lengthByte v 7, lengthByte v 6, lengthByte v 5, lengthByte v 4,
   lengthByte v 3, lengthByte v 2, lengthByte v 1, lengthByte v 0]

/-- R453, block load: `W[i] <- BE32(B[4i], B[4i+1], B[4i+2], B[4i+3])` for `i` in [0, 16), of a block of 64 bytes. -/
def blockLoad (block : List Byte) : List Word :=
  (List.range 16).map fun i =>
    be32 (block.getD (4 * i) 0) (block.getD (4 * i + 1) 0) (block.getD (4 * i + 2) 0) (block.getD (4 * i + 3) 0)

/-- R454, digest wire format: the 32 bytes of the eight result words, `BYTES32(digest[0]) ++ … ++ BYTES32(digest[7])`. -/
def digestBytes (digest : Vector Word 8) : List Byte := digest.toList.flatMap bytes32

/-- The inverse of R303: `byte(k)` at `DATA[31 - 8k : 24 - 8k]`, unused positions 0 (R308). -/
def placeBytes (bytes : List Byte) : Word :=
  be32 (bytes.getD 0 0) (bytes.getD 1 0) (bytes.getD 2 0) (bytes.getD 3 0)

end Sys2Proof.Machine
end

