-- ==== Sys2Proof/Syntax.lean ====
section
/-! DEFINITION. The five commands of the opcode map (R301 of spec/30_encoding.md), one constructor per row of
spec/opcode_table.json. A word with OP = 0x5 to 0xF is no command: decoding refuses it by name, and the machine records
ILLEGAL_OP for it (R305, R801). -/

namespace Sys2Proof

/-- A decoded command. Fields that R304 says are ignored are no part of it: a command with ignored bits set is the same
command. -/
inductive Instr where
  /-- NOP (R603): no effect. -/
  | nop
  /-- INIT (R604), the document's `create`. -/
  | init
  /-- PUSH (R605), with the message bytes it carries, earliest first (`byte(0)`, …, `byte(n-1)` of R303). -/
  | push (bytes : List Byte)
  /-- FINISH (R606). -/
  | finish
  /-- CLRERR (R607). -/
  | clrerr
  deriving DecidableEq, Repr

end Sys2Proof
end

