-- ==== Sys2Proof/WellFormed.lean ====
section
/-! DEFINITION. Which commands have an encoding: a PUSH carries 1 to 4 bytes (R302: a PUSH of zero bytes cannot be encoded;
R6: bytes per PUSH command 1 to 4). -/

namespace Sys2Proof

/-- The command has an encoding. -/
def Instr.wf : Instr → Bool
  | .nop => true
  | .init => true
  | .push bytes => decide (1 ≤ bytes.length) && decide (bytes.length ≤ 4)
  | .finish => true
  | .clrerr => true

end Sys2Proof
end

