-- ==== Sys2Proof/Decode.lean ====
section
/-! DEFINITION. The command word (R300 to R307 of spec/30_encoding.md): the decoder, total on all 2^40 words, and the
encoder. The command port carries the 40-bit word whole, so no byte order of the word itself arises. -/

namespace Sys2Proof

/-- Why a command word is no command. -/
inductive DecodeError where
  /-- OP = 0x5 to 0xF (R305): the engine records ILLEGAL_OP (R801). -/
  | illegalOp (op : BitVec 4)
  deriving DecidableEq, Repr

/-- OP, bits 39:36 (R300). -/
def opField (cw : CommandWord) : BitVec 4 := cw.extractLsb' 36 4

/-- NBM1, bits 35:34 (R300): for PUSH, the number of bytes minus one. -/
def nbm1Field (cw : CommandWord) : BitVec 2 := cw.extractLsb' 34 2

/-- RSVD, bits 33:32 (R300): ignored (R304). -/
def rsvdField (cw : CommandWord) : BitVec 2 := cw.extractLsb' 32 2

/-- DATA, bits 31:0 (R300). -/
def dataField (cw : CommandWord) : Word := cw.extractLsb' 0 32

/-- R301: OP alone selects the command; R305: OP = 0x5 to 0xF is illegal. -/
def decode (cw : CommandWord) : Except DecodeError Instr :=
  match (opField cw).toNat with
  | 0 => .ok .nop
  | 1 => .ok .init
  | 2 => .ok (.push (Machine.pushBytes (nbm1Field cw) (dataField cw)))
  | 3 => .ok .finish
  | 4 => .ok .clrerr
  | _ => .error (.illegalOp (opField cw))

/-- The OP value of a command (R301). -/
def opcodeOf : Instr → BitVec 4
  | .nop => 0x0
  | .init => 0x1
  | .push _ => 0x2
  | .finish => 0x3
  | .clrerr => 0x4

/-- The word with the given fields and RSVD = 0: `cw = (OP << 36) | (NBM1 << 34) | DATA` (spec/30_encoding.md, Encodings at a
glance). -/
def assembleWord (op : BitVec 4) (nbm1 : BitVec 2) (data : Word) : CommandWord :=
  op.setWidth 40 <<< 36 ||| nbm1.setWidth 40 <<< 34 ||| data.setWidth 40

/-- R308: NBM1 = n - 1, the bytes placed by R303, every ignored field 0. -/
def encode : Instr → CommandWord
  | .nop => assembleWord (opcodeOf .nop) 0 0
  | .init => assembleWord (opcodeOf .init) 0 0
  | .push bytes =>
    assembleWord (opcodeOf (.push bytes)) (BitVec.ofNat 2 (bytes.length - 1)) (Machine.placeBytes bytes)
  | .finish => assembleWord (opcodeOf .finish) 0 0
  | .clrerr => assembleWord (opcodeOf .clrerr) 0 0

/-- The command word whose low `nbits` bits are those of `w`, as spec/opcode_table.json numbers them; the bits above are 0. -/
def tableWord (nbits w : Nat) : CommandWord := BitVec.ofNat 40 (w % 2 ^ nbits)

/-- What the decoder reads from the word of a row of spec/opcode_table.json. -/
def decodeTableWord (nbits w : Nat) : Option Instr :=
  match decode (tableWord nbits w) with
  | .ok i => some i
  | .error _ => none

end Sys2Proof
end

