-- ==== Sys2Proof/Machine/WordOps.lean ====
section
/-! DEFINITION. Rotation, shift and the composite functions of spec/40_word_ops.md (R405 to R412). They write no state and
raise nothing (R413). -/

namespace Sys2Proof.Machine

/-- R405, ROTR: circular right rotation; an amount of 32 or more is taken modulo 32. -/
def rotr (x : Word) (n : Nat) : Word := x.rotateRight n

/-- R406, SHR: logical right shift, 0 for an amount of 32 or more. -/
def shr (x : Word) (n : Nat) : Word := x >>> n

/-- R407, Σ0. -/
def bigSigma0 (a : Word) : Word := rotr a 2 ^^^ rotr a 13 ^^^ rotr a 22

/-- R408, Σ1. -/
def bigSigma1 (e : Word) : Word := rotr e 6 ^^^ rotr e 11 ^^^ rotr e 25

/-- R409, s0, the schedule function of `W[i-15]`. -/
def smallSigma0 (x : Word) : Word := rotr x 7 ^^^ rotr x 18 ^^^ shr x 3

/-- R410, s1, the schedule function of `W[i-2]`. -/
def smallSigma1 (x : Word) : Word := rotr x 17 ^^^ rotr x 19 ^^^ shr x 10

/-- R411, Ch. -/
def ch (e f g : Word) : Word := (e &&& f) ^^^ (~~~e &&& g)

/-- R412, Maj. -/
def maj (a b c : Word) : Word := (a &&& b) ^^^ (a &&& c) ^^^ (b &&& c)

/-- R411 with the OR of R402: a realisation of Ch that R402 allows. -/
def chOr (e f g : Word) : Word := (e &&& f) ||| (~~~e &&& g)

/-- R412 with the OR of R402: a realisation of Maj that R402 allows. -/
def majOr (a b c : Word) : Word := (a &&& b) ||| (a &&& c) ||| (b &&& c)

end Sys2Proof.Machine
end

