-- ==== Sys2Proof/Machine/Schedule.lean ====
section
/-! DEFINITION. The message schedule as a 64-word array (R500 to R502 of spec/42_message_schedule.md). -/

namespace Sys2Proof.Machine

/-- R501: the next schedule word `W[i]`, `i` the number of words there are already. -/
def nextScheduleWord (W : List Word) : Word :=
  W.getD (W.length - 16) 0 + smallSigma0 (W.getD (W.length - 15) 0)
    + W.getD (W.length - 7) 0 + smallSigma1 (W.getD (W.length - 2) 0)

/-- R501: `n` more schedule words, in increasing order. -/
def extendSchedule : Nat → List Word → List Word
  | 0, W => W
  | n + 1, W => extendSchedule n (W ++ [nextScheduleWord W])

/-- R500, R501: the schedule `W[0..63]` of a block of 64 bytes. -/
def schedule (block : List Byte) : List Word := extendSchedule 48 (blockLoad block)

end Sys2Proof.Machine
end

