-- ==== Sys2Proof/Config.lean ====
section
/-! DEFINITION. What is fixed for the machine, and the free values: the values the spec leaves open have no body here, so
that no proof can see them. -/

namespace Sys2Proof.Config

/-- MAX_MESSAGE_BYTES (R6, decision D6): the longest message the engine accepts, in bytes. -/
def maxMessageBytes : Nat := 2 ^ 61 - 1

/-- FREE VALUE. One less than ROUNDS_PER_STEP, the OPEN parameter of R6 and R712 (93, row S8). The reference realisation
takes 1 round per micro-step; no architectural result depends on it. Log entry 6. -/
opaque extraRoundsPerStep : Nat

/-- ROUNDS_PER_STEP (R712): at least one round per ROUND micro-step. -/
def roundsPerStep : Nat := extraRoundsPerStep + 1

/-- FREE VALUE. What the read port returns while BUSY = 1, drawn afresh at each read (R906; 93, row S1): the value of the
draw with the given number. Log entry 4. -/
opaque busyRead : Nat → Word

/-- FREE VALUE. What a byte of the pending buffer that nothing has written holds (R103, R120; 93, row S3), by its address.
No rule reads such a byte before writing it. Log entry 2. -/
opaque unwrittenByte : Nat → Byte

end Sys2Proof.Config
end

