-- ==== Sys2Proof/Machine/State.lean ====
section
/-! DEFINITION. The state of the engine (R100, R111, R701), plain data, with the model's own fields for the host's side; the
reasons a step can stop; the state after reset (R120, R900). -/

namespace Sys2Proof.Machine

/-- The pending buffer's bytes that have been written, as (address, byte) pairs, addresses strictly rising (R200, R201).
An address that is not listed has not been written (R103). -/
abbrev Memory := List Host.Cell

/-- The working variables `a..h` (R551, R701). -/
structure Working where
  a : Word
  b : Word
  c : Word
  d : Word
  e : Word
  f : Word
  g : Word
  h : Word
  deriving DecidableEq, Repr

/-- The sequencing state `fsm` (R701). -/
inductive Fsm where
  | idle | append | pad | load | round | feedback | capture
  deriving DecidableEq, Repr

/-- The hidden `mode` (R701). -/
inductive Mode where
  | none | pushing | finishing
  deriving DecidableEq, Repr

/-- The padding sub-state `pad` (R652); `none` is its value after reset (R120). -/
inductive Pad where
  | none
  | pad80
  | padz
  | padlen (k : Fin 8)
  | paddone
  deriving DecidableEq, Repr

/-- The errors the engine records (R800). -/
inductive EngineError where
  /-- Code 1 (R801): OP = 0x5 to 0xF. -/
  | illegalOp
  /-- Code 2 (R802): PUSH or FINISH while `done = 1`. -/
  | sequence
  /-- Code 3 (R803): a PUSH past MAX_MESSAGE_BYTES. -/
  | length
  deriving DecidableEq, Repr

/-- THE MODEL'S OWN (log entry 3). What the host does next (R910). -/
inductive HostMove where
  /-- Presents a command word, held unchanged until it is accepted (R905). -/
  | present (cw : CommandWord)
  /-- Reads the read port at an address, before the engine's next transition (log entry 11). -/
  | read (addr : BitVec 4)
  /-- Asserts `rst` for one step. -/
  | reset
  /-- Presents nothing for one step. -/
  | wait
  /-- `WAIT` (R309): reads STATUS until a read shows BUSY = 0, one read at each micro-step (log entry 14). -/
  | waitIdle
  deriving DecidableEq, Repr

/-- THE MODEL'S OWN (log entry 5). At which of the spec's two levels an accepted command is performed. -/
inductive Level where
  /-- Each accepted command is one indivisible step (R213). -/
  | transaction
  /-- Acceptance and every micro-step of spec/46_iterative_datapath.md are steps of their own (R702). -/
  | micro
  deriving DecidableEq, Repr

/-- The engine's state and the model's own fields. -/
structure State where
  /-- `state[0..7]`, the chaining value (R101). -/
  state : Vector Word 8
  /-- `completed_blocks` (R102). -/
  completedBlocks : BitVec 64
  /-- `pending[0..63]` (R103). -/
  pending : Memory
  /-- `num_pending` (R104). -/
  numPending : BitVec 6
  /-- `done` (R105): false = ACCEPT, true = DONE. -/
  done : Bool
  /-- `errcode` (R106). -/
  errcode : BitVec 2
  /-- `digest[0..7]` (R107). -/
  digest : Vector Word 8
  /-- `fsm` (R701). -/
  fsm : Fsm
  /-- `mode` (R701). -/
  mode : Mode
  /-- `inq`, the bytes of the current PUSH not yet appended (R701). -/
  inq : List Byte
  /-- `pad` (R652, R701). -/
  pad : Pad
  /-- `L`, the latched bit length (R650, R701). -/
  L : BitVec 64
  /-- `w[0..15]`, the schedule window (R701). -/
  w : Vector Word 16
  /-- `a..h` (R701). -/
  working : Working
  /-- `t`, the round counter (R701). -/
  t : BitVec 6
  /-- THE MODEL'S OWN: what the host does next, the first move first (log entry 3). -/
  inputs : List HostMove
  /-- THE MODEL'S OWN: the level at which commands are performed (log entry 5). -/
  level : Level
  /-- THE MODEL'S OWN: the value the read port returned last (log entry 3). -/
  rdata : Word
  /-- THE MODEL'S OWN: how many reads there have been, the number of the next draw of `Config.busyRead` (log entry 4). -/
  draws : Nat
  deriving DecidableEq, Repr

/-- Why the machine stops. Neither reason is an engine error (R807) and neither arises from a launch state. -/
inductive Fault where
  /-- Raised by `step` in a state with BUSY = 0, `done = 0` and more than MAX_MESSAGE_BYTES message bytes: row U3 of
  spec/93_implementation_defined.md asks for a fault there. Safe: the spec gives such a state no meaning. -/
  | lengthInvariantBroken
  /-- Raised by `step` in a state with BUSY = 1 to which no rule of R653, R704 or R708 applies (a stuck state). Safe: no run
  reaches one. -/
  | noMicroStep
  deriving DecidableEq, Repr

/-- Why an instruction has no meaning. -/
inductive Refusal where
  /-- Raised by `exec` alone, for an instruction that has no meaning in the model yet. Safe: nothing can be proved of it. -/
  | notModelled (mnemonic : String)
  deriving DecidableEq, Repr

/-- The state after reset (R120, R900). `L`, `w`, `a..h` and `t` have no value there by the spec; the model names zero (log
entry 1). The pending buffer has no byte written. The model's own fields: no host move, transaction level, nothing read. -/
def State.reset : State where
  state := romIV
  completedBlocks := 0
  pending := []
  numPending := 0
  done := false
  errcode := 0
  digest := Vector.replicate 8 0
  fsm := .idle
  mode := .none
  inq := []
  pad := .none
  L := 0
  w := Vector.replicate 16 0
  working := { a := 0, b := 0, c := 0, d := 0, e := 0, f := 0, g := 0, h := 0 }
  t := 0
  inputs := []
  level := .transaction
  rdata := 0
  draws := 0

end Sys2Proof.Machine
end

