-- ==== Sys2Proof/Machine/Compression.lean ====
section
/-! DEFINITION. The compression function as a function of the chaining value and one block (R550 to R555 of
spec/43_compression.md). -/

namespace Sys2Proof.Machine

/-- R551: the working variables from the chaining value. -/
def workingOf (h : Vector Word 8) : Working :=
  { a := h[0], b := h[1], c := h[2], d := h[3], e := h[4], f := h[5], g := h[6], h := h[7] }

/-- R552: one round, with round constant `k` and schedule word `w`. Every right-hand side reads the values from before the
round. -/
def round (k w : Word) (v : Working) : Working :=
  let t1 := v.h + bigSigma1 v.e + ch v.e v.f v.g + k + w
  let t2 := bigSigma0 v.a + maj v.a v.b v.c
  { a := t1 + t2, b := v.a, c := v.b, d := v.c, e := v.d + t1, f := v.e, g := v.f, h := v.g }

/-- R553, R554: the rounds of the given numbers, in order; round `i` uses `ROM_K[i]` and `W[i]`. -/
def runRounds (W : List Word) (is : List Nat) (v : Working) : Working :=
  is.foldl (fun v i => round (roundConstant i) (W.getD i 0) v) v

/-- R555: feedback, word by word modulo 2^32. -/
def feedback (h : Vector Word 8) (v : Working) : Vector Word 8 :=
  #v[h[0] + v.a, h[1] + v.b, h[2] + v.c, h[3] + v.d, h[4] + v.e, h[5] + v.f, h[6] + v.g, h[7] + v.h]

/-- The working variables after round 63 of the compression of `block` (R551, R554). -/
def finalWorking (h : Vector Word 8) (block : List Byte) : Working :=
  runRounds (schedule block) (List.range 64) (workingOf h)

/-- R550: the chaining value after one block. -/
def compressValue (h : Vector Word 8) (block : List Byte) : Vector Word 8 :=
  feedback h (finalWorking h block)

end Sys2Proof.Machine
end

