-- ==== Sys2Proof/Machine/Flags.lean ====
section
/-! DEFINITION. Status. The engine has no arithmetic flags (R114); its only status bits are the fields of STATUS (R115). This
file holds the error codes (R800), BUSY (R709), STATUS and the read-port map (R115 to R118, R906). -/

namespace Sys2Proof.Machine

/-- R800: the code of an error. -/
def errorCode : EngineError → BitVec 2
  | .illegalOp => 1
  | .sequence => 2
  | .length => 3

/-- R709: BUSY = 1 exactly when `fsm ≠ IDLE`. -/
def busy (s : State) : Bool := decide (s.fsm ≠ .idle)

/-- R115: STATUS, from bit 31 down: reserved, NUM_PENDING [13:8], reserved [7:4], ERRCODE [3:2], DONE [1], BUSY [0]. -/
def statusWord (s : State) : Word :=
  0#18 ++ s.numPending ++ 0#4 ++ s.errcode ++ BitVec.ofBool s.done ++ BitVec.ofBool (busy s)

/-- R116: BLOCKS_LO. -/
def blocksLo (s : State) : Word := s.completedBlocks.extractLsb' 0 32

/-- R116: BLOCKS_HI. -/
def blocksHi (s : State) : Word := s.completedBlocks.extractLsb' 32 32

/-- R117: DIGESTi, for the addresses 8 + i. -/
def digestWord (s : State) (i : Nat) : Word := s.digest.toList.getD i 0

/-- R115 to R118: what an address reads as at BUSY = 0; the addresses 3 to 7 are reserved and read 0. -/
def registerRead (s : State) (addr : BitVec 4) : Word :=
  if addr.toNat = 0 then statusWord s
  else if addr.toNat = 1 then blocksLo s
  else if addr.toNat = 2 then blocksHi s
  else if addr.toNat < 8 then 0
  else digestWord s (addr.toNat - 8)

/-- R906: what an address reads as at BUSY = 1: any value, but bit 0 of STATUS is 1. `draw` numbers the read. -/
def busyRegisterRead (draw : Nat) (addr : BitVec 4) : Word :=
  if addr.toNat = 0 then Config.busyRead draw ||| 1 else Config.busyRead draw

/-- The read port (R118, R906). -/
def readPort (draw : Nat) (s : State) (addr : BitVec 4) : Word :=
  if busy s then busyRegisterRead draw addr else registerRead s addr

/-- R912: the sixteen read-port values. -/
def readAll (s : State) : List Word :=
  (List.range 16).map fun a => readPort s.draws s (BitVec.ofNat 4 a)

end Sys2Proof.Machine
end

