-- ==== Sys2Proof/Machine/Ops.lean ====
section
/-! DEFINITION. The operations the commands share: the pending buffer (R201), recording an error and clearing it (R804,
R809), the fresh context and reset (R604, R900), the checks of R601, the append primitive (R602), compression on the state
(R550), padding (R650, R651) and the digest capture (R656). -/

namespace Sys2Proof.Machine

/-! ### The pending buffer -/

/-- R201, `MemWrite(i, 1, [b])`. The list stays in rising order of addresses. -/
def memWrite : Memory → Nat → Byte → Memory
  | [], i, b => [(i, b)]
  | (j, c) :: m, i, b =>
    if i < j then (i, b) :: (j, c) :: m
    else if i = j then (i, b) :: m
    else (j, c) :: memWrite m i b

/-- The byte written last at an address, if any has been. -/
def memLookup : Memory → Nat → Option Byte
  | [], _ => none
  | (j, c) :: m, i => if i = j then some c else memLookup m i

/-- One byte of the buffer. A byte that nothing has written is a free value (R103; 93, row S3). -/
def pendingByte (m : Memory) (i : Nat) : Byte := (memLookup m i).getD (Config.unwrittenByte i)

/-- R9, R201, `MemRead(i, n)`: `n` bytes from address `i`, in address order. -/
def memRead (m : Memory) (i n : Nat) : List Byte := (List.range n).map fun k => pendingByte m (i + k)

/-- The canonical form: addresses strictly rising. No entry can equal what an unlisted address reads as, which is no value. -/
def Memory.sorted : Memory → Bool
  | [] => true
  | [_] => true
  | (i, _) :: (j, c) :: m => decide (i < j) && Memory.sorted ((j, c) :: m)

/-- The buffer's form: canonical, and every address in 0 to 63 (R200). -/
def Memory.wf (m : Memory) : Bool := Memory.sorted m && m.all fun cell => decide (cell.1 < 64)

/-- The valid bytes of the buffer: the message tail that has not formed a block yet (R103, R104). -/
def validBytes (s : State) : List Byte := memRead s.pending 0 s.numPending.toNat

/-! ### Errors -/

/-- R804, `raise E(info)`: the first error since the last clear is kept; nothing else is recorded and nothing else changes
(R805). -/
def raiseError (e : EngineError) (s : State) : State :=
  if s.errcode = 0 then { s with errcode := errorCode e } else s

/-- R607, R809: the only return from an error. -/
def clearError (s : State) : State := { s with errcode := 0 }

/-- The message bytes accepted, with the padding bytes appended: `completed_blocks * 64 + num_pending` over the naturals
(R119, R601). -/
def totalBytes (s : State) : Nat := s.completedBlocks.toNat * 64 + s.numPending.toNat

/-- R601, the checks of a PUSH of `n` bytes after the opcode check, in their order. -/
def checkPush (n : Nat) (s : State) : Option EngineError :=
  if s.done then some .sequence
  else if Config.maxMessageBytes < totalBytes s + n then some .length
  else none

/-- R601, the check of FINISH after the opcode check. -/
def checkFinish (s : State) : Option EngineError :=
  if s.done then some .sequence else none

/-! ### Fresh context and reset -/

/-- R604: the writes of INIT. `errcode` and the pending bytes are unchanged. -/
def initContext (s : State) : State :=
  { s with
    state := romIV
    completedBlocks := 0
    numPending := 0
    done := false
    digest := Vector.replicate 8 0 }

/-- R900: the writes of a step with `rst = 1`. `pending`, `L`, `w`, `a..h` and `t` are not written. -/
def resetEngine (s : State) : State :=
  { s with
    state := romIV
    completedBlocks := 0
    numPending := 0
    done := false
    errcode := 0
    digest := Vector.replicate 8 0
    fsm := .idle
    mode := .none
    inq := []
    pad := .none }

/-! ### Compression and the append primitive -/

/-- The sixteen words of a list as the schedule window `w[0..15]` (R706). -/
def windowOf (W : List Word) : Vector Word 16 := Vector.ofFn fun i => W.getD i.val 0

/-- R550, R555, R556: compress one block into the state. The datapath registers are left as the reference realisation
leaves them (R706, R707): the window holds `W[48..63]`, `a..h` the working variables after round 63, `t` is 63; no rule reads
them before writing them (R701; log entry 7). -/
def compressBlock (block : List Byte) (s : State) : State :=
  { s with
    state := compressValue s.state block
    completedBlocks := s.completedBlocks + 1
    w := windowOf ((schedule block).drop 48)
    working := finalWorking s.state block
    t := 63 }

/-- R201: `pending[num_pending] <- b`. -/
def storeByte (b : Byte) (s : State) : State :=
  { s with pending := memWrite s.pending s.numPending.toNat b }

/-- R602, AppendByte: the streaming buffer's one write path. -/
def appendByte (s : State) (b : Byte) : State :=
  let s1 := storeByte b s
  if s.numPending = 63 then { compressBlock (memRead s1.pending 0 64) s1 with numPending := 0 }
  else { s1 with numPending := s.numPending + 1 }

/-- AppendByte over a list of bytes, the first byte first (R605). -/
def appendBytes (bytes : List Byte) (s : State) : State := bytes.foldl appendByte s

/-! ### Padding and finalization -/

/-- R650: the bit length of the message, `(N * 8)[63:0]`. -/
def messageBits (s : State) : BitVec 64 := BitVec.ofNat 64 (totalBytes s * 8)

/-- R651: the number of zero bytes, `z = (55 - p) mod 64` with `p = N mod 64`. -/
def zeroCount (N : Nat) : Nat := (55 + 64 - N % 64) % 64

/-- R651: `P(N) = [0x80] ++ [0x00] * z ++ BYTES64(L)`. -/
def paddingBytes (N : Nat) (L : BitVec 64) : List Byte :=
  [0x80] ++ List.replicate (zeroCount N) 0 ++ bytes64 L

/-- R655: how many blocks FINISH compresses. -/
def finalBlocks (N : Nat) : Nat := if N % 64 < 56 then 1 else 2

/-- R656: the digest capture. -/
def captureDigest (s : State) : State := { s with digest := s.state, done := true }

end Sys2Proof.Machine
end

