-- ==== Sys2Proof/Machine/Commands.lean ====
section
/-! DEFINITION. The meanings of the commands at the transaction level (R601 to R607 of spec/44_commands.md, R650 to R657 of
spec/45_padding_finish.md): each accepted command is one indivisible step (R213). -/

namespace Sys2Proof.Machine

/-- R603, NOP: no effect. -/
def execNop (s : State) : Host.Outcome State Fault Refusal := .next s

/-- R604, INIT. -/
def execInit (s : State) : Host.Outcome State Fault Refusal := .next (initContext s)

/-- R605, PUSH, after the checks of R601: AppendByte over its bytes, `byte(0)` first. `mode` and `inq` are left as R703, R704
and R708 leave them at the end of the command. -/
def pushEffect (bytes : List Byte) (s : State) : State :=
  { appendBytes bytes s with mode := .pushing, inq := [] }

/-- R605, PUSH. -/
def execPush (bytes : List Byte) (s : State) : Host.Outcome State Fault Refusal :=
  match checkPush bytes.length s with
  | some e => .next (raiseError e s)
  | none => .next (pushEffect bytes s)

/-- R650 to R656, `Finalize()`: latch the length, append the padding through the update path (R654), capture the digest.
`L`, `mode` and `pad` are left as R703, R705 and R708 leave them at the end of the command. -/
def finalize (s : State) : State :=
  let s1 := appendBytes (paddingBytes (totalBytes s) (messageBits s)) s
  { captureDigest s1 with L := messageBits s, mode := .none, pad := .paddone }

/-- R606, FINISH. -/
def execFinish (s : State) : Host.Outcome State Fault Refusal :=
  match checkFinish s with
  | some e => .next (raiseError e s)
  | none => .next (finalize s)

/-- R607, CLRERR. -/
def execClrerr (s : State) : Host.Outcome State Fault Refusal := .next (clearError s)

/-- R305, R801: what an accepted word with OP = 0x5 to 0xF does. -/
def execIllegal (s : State) : Host.Outcome State Fault Refusal := .next (raiseError .illegalOp s)

end Sys2Proof.Machine
end

