-- ==== Sys2Proof/Machine/Dispatch.lean ====
section
/-! DEFINITION. The meaning of each command, one arm per constructor of Instr. -/

namespace Sys2Proof.Machine

def exec (i : Instr) (s : State) : Host.Outcome State Fault Refusal :=
  match i with
  | .nop => Sys2Proof.Machine.execNop s
  | .init => Sys2Proof.Machine.execInit s
  | .push bytes => Sys2Proof.Machine.execPush bytes s
  | .finish => Sys2Proof.Machine.execFinish s
  | .clrerr => Sys2Proof.Machine.execClrerr s

end Sys2Proof.Machine
end

