-- ==== Sys2Proof/Machine/Micro.lean ====
section
/-! DEFINITION. The iterative datapath (R700 to R712 of spec/46_iterative_datapath.md): acceptance (R703) and the micro-steps
of a busy engine (R704 to R708). -/

namespace Sys2Proof.Machine

/-- R703: the acceptance step of a decoded command. NOP, INIT, CLRERR and every error complete in it. -/
def acceptCommand (i : Instr) (s : State) : State :=
  match i with
  | .nop => s
  | .init => initContext s
  | .clrerr => clearError s
  | .push bytes =>
    match checkPush bytes.length s with
    | some e => raiseError e s
    | none => { s with mode := .pushing, inq := bytes, fsm := .append }
  | .finish =>
    match checkFinish s with
    | some e => raiseError e s
    | none => { s with L := messageBits s, mode := .finishing, pad := .pad80, fsm := .pad }

/-- R704, WriteByte: the byte is stored; a full block sets `fsm` to LOAD, with `num_pending` kept at 63 until FEEDBACK. -/
def writeByte (b : Byte) (s : State) : State :=
  let s1 := storeByte b s
  if s.numPending = 63 then { s1 with fsm := .load }
  else { s1 with numPending := s.numPending + 1 }

/-- R704, the APPEND step. With `inq` empty no rule applies (log entry 10). -/
def appendStep (s : State) : State :=
  match s.inq with
  | [] => s
  | b :: rest => writeByte b { s with inq := rest, fsm := if rest.isEmpty then .idle else .append }

/-- R653, R705: the PAD step, one transition of the padding FSM. With `pad` none, or PADDONE and `num_pending ≠ 0`, no rule
applies (log entry 10). -/
def padStep (s : State) : State :=
  match s.pad with
  | .none => s
  | .pad80 => writeByte 0x80 { s with pad := .padz }
  | .padz => if s.numPending = 56 then { s with pad := .padlen 7 } else writeByte 0x00 s
  | .padlen k =>
    writeByte (lengthByte s.L k.val) { s with pad := if k = 0 then .paddone else .padlen (k - 1) }
  | .paddone => if s.numPending = 0 then { s with fsm := .capture } else s

/-- R706, the LOAD step. -/
def loadStep (s : State) : State :=
  { s with
    w := windowOf (blockLoad (memRead s.pending 0 64))
    working := workingOf s.state
    t := 0
    fsm := .round }

/-- R707: the window's word of round `t`, `W[t]`. -/
def windowWord (w : Vector Word 16) (t : Nat) : Word :=
  if 16 ≤ t then
    smallSigma1 (w.toList.getD ((t - 2) % 16) 0) + w.toList.getD ((t - 7) % 16) 0
      + smallSigma0 (w.toList.getD ((t - 15) % 16) 0) + w.toList.getD (t % 16) 0
  else w.toList.getD (t % 16) 0

/-- R707: one round with the 16-word schedule window. -/
def roundStep (s : State) : State :=
  let Wt := windowWord s.w s.t.toNat
  { s with
    w := s.w.set (s.t.toNat % 16) Wt (Nat.mod_lt _ (by decide))
    working := round (roundConstant s.t.toNat) Wt s.working
    t := if s.t = 63 then s.t else s.t + 1
    fsm := if s.t = 63 then .feedback else s.fsm }

/-- R707, R712: the ROUND step of a realisation that computes up to `r` rounds per micro-step; it ends with round 63. -/
def roundsStep : Nat → State → State
  | 0, s => s
  | r + 1, s => if s.fsm = .round then roundsStep r (roundStep s) else s

/-- R708: where FEEDBACK goes. With `mode` none the rule names no successor (log entry 10). -/
def afterFeedback (s : State) : Fsm :=
  match s.mode with
  | .pushing => if s.inq.isEmpty then .idle else .append
  | .finishing => .pad
  | .none => s.fsm

/-- R708, the FEEDBACK step. -/
def feedbackStep (s : State) : State :=
  { s with
    state := feedback s.state s.working
    completedBlocks := s.completedBlocks + 1
    numPending := 0
    fsm := afterFeedback s }

/-- R708, the CAPTURE step. -/
def captureStep (s : State) : State := { captureDigest s with mode := .none, fsm := .idle }

/-- R702: the micro-step of the engine that `fsm` chooses, with `r` rounds per ROUND step; at IDLE the state does not change. -/
def busyStep (r : Nat) (s : State) : State :=
  match s.fsm with
  | .idle => s
  | .append => appendStep s
  | .pad => padStep s
  | .load => loadStep s
  | .round => roundsStep r s
  | .feedback => feedbackStep s
  | .capture => captureStep s

/-- `n` micro-steps. -/
def busySteps (r : Nat) : Nat → State → State
  | 0, s => s
  | n + 1, s => busySteps r n (busyStep r s)

/-- R711: the busy micro-steps of an accepted PUSH of `n` bytes in the reference realisation. -/
def pushMicroSteps (n : Nat) (s : State) : Nat := if s.numPending.toNat + n < 64 then n else n + 66

/-- R711: the busy micro-steps of an accepted FINISH in the reference realisation. -/
def finishMicroSteps (s : State) : Nat := 9 + zeroCount (totalBytes s) + 3 + 66 * finalBlocks (totalBytes s)

end Sys2Proof.Machine
end

