-- ==== Sys2Proof/Machine/Port.lean ====
section
/-! DEFINITION. The host's side of a step (R600, R702, R905, R910): reading the port, presenting the next word, and the states
in which the machine stops. -/

namespace Sys2Proof.Machine

/-- R118, R210, R906: a read delivers a value and changes nothing of the engine. -/
def hostRead (addr : BitVec 4) (s : State) : State :=
  { s with rdata := readPort s.draws s addr, draws := s.draws + 1 }

/-- Row U3 of spec/93_implementation_defined.md: BUSY = 0, `done = 0` and more than MAX_MESSAGE_BYTES message bytes. -/
def lengthBroken (s : State) : Bool :=
  !busy s && !s.done && decide (Config.maxMessageBytes < totalBytes s)

/-- A busy state to which no rule of R653, R704 or R708 applies (log entry 10). -/
def microStuck (s : State) : Bool :=
  match s.fsm with
  | .append => s.inq.isEmpty
  | .pad => decide (s.pad = .none) || (decide (s.pad = .paddone) && decide (s.numPending ≠ 0))
  | .feedback => decide (s.mode = .none)
  | _ => false

/-- Why the machine stops in a state, if it does. -/
def stopReason (s : State) : Option Fault :=
  if lengthBroken s then some .lengthInvariantBroken
  else if microStuck s then some .noMicroStep
  else none

/-- The host presents `cw` next, the engine is at a command boundary and commands are performed at the transaction level. -/
def presentNext (cw : CommandWord) (s : State) : State :=
  { s with inputs := .present cw :: s.inputs, fsm := .idle, level := .transaction }

end Sys2Proof.Machine
end

