-- ==== Sys2Proof/Machine/Sequence.lean ====
section
/-! DEFINITION. Acceptance of a word (R600, R601), the host's WAIT (R309) and one step of the machine with the host's next
move (R702). -/

namespace Sys2Proof.Machine

/-- R600, R601: the accepted word is decoded; an illegal one records ILLEGAL_OP (R801). At the transaction level the command is
performed whole (R213), at the micro level it is accepted (R703). -/
def acceptWord (cw : CommandWord) (s : State) : Host.Outcome State Fault Refusal :=
  match decode cw with
  | .error _ => execIllegal s
  | .ok i =>
    match s.level with
    | .transaction => exec i s
    | .micro => .next (acceptCommand i s)

/-- The machine stops in a state that `stopReason` names. -/
def unlessStopped (s : State) (o : Host.Outcome State Fault Refusal) : Host.Outcome State Fault Refusal :=
  match stopReason s with
  | some f => .fault f
  | none => o

/-- The engine's micro-step (R702), with the machine's ROUNDS_PER_STEP (R712). -/
def engineStep (s : State) : State := busyStep Config.roundsPerStep s

/-- R309, `WAIT`: STATUS is read; where the value read shows BUSY = 1 the move stays and the engine takes its micro-step, so that
STATUS is read again; where it shows BUSY = 0 the move is over (log entry 14). -/
def pollStatus (rest : List HostMove) (s : State) : State :=
  let polled := hostRead 0 s
  if polled.rdata.getLsbD 0 then engineStep polled else { polled with inputs := rest }

/-- R702. Reset comes first. A word presented while BUSY = 1 is not accepted and not lost (R600); a wait lets the engine take its
micro-step; with BUSY = 0 and no command presented the engine does not change. A read is a step in which the engine makes no
transition, so any number of reads stand at one micro-step (R910, R210; log entry 11); `WAIT` reads until BUSY = 0 (R309). -/
def hostStep (s : State) : Host.Outcome State Fault Refusal :=
  match s.inputs with
  | .reset :: rest => .next (resetEngine { s with inputs := rest })
  | .present cw :: rest =>
    unlessStopped s (if busy s then .next (engineStep s) else acceptWord cw { s with inputs := rest })
  | .read addr :: rest => unlessStopped s (.next (hostRead addr { s with inputs := rest }))
  | .wait :: rest => unlessStopped s (.next (engineStep { s with inputs := rest }))
  | .waitIdle :: rest => unlessStopped s (.next (pollStatus rest s))
  | [] => unlessStopped s (.next (engineStep s))

end Sys2Proof.Machine
end

