-- ==== Sys2Proof/Machine/Step.lean ====
section
/-! DEFINITION. One step of the machine, and the placing of a word where the next step accepts it. -/

namespace Sys2Proof.Machine

/-- One step (R702). -/
def step (s : State) : Host.Outcome State Fault Refusal := hostStep s

/-- The word of a row of the opcode table, presented so that the very next step accepts it and runs it whole (log entry 3). -/
def State.withFetchWord (s : State) (nbits w : Nat) : State := presentNext (tableWord nbits w) s

end Sys2Proof.Machine
end

