-- ==== Sys2Proof/Machine/Streaming.lean ====
section
/-! DEFINITION. What a sequence of commands computes, in the spec's own terms: the pseudo-instructions and what the host
does for them (R308 to R310), SHA-256 of a message as the padded blocks compressed in order (R550, R651, R655), and the document's three-step update (R609). -/

namespace Sys2Proof.Machine

/-! ### Sequences of commands -/

/-- Commands performed in the order they are accepted (R213). -/
def runInstrs : List Instr → State → Host.Outcome State Fault Refusal
  | [], s => .next s
  | i :: is, s =>
    match exec i s with
    | .next t => runInstrs is t
    | .fault f => .fault f
    | .refused r => .refused r

/-- The bytes a sequence of commands carries, in order (R202). -/
def carriedBytes (is : List Instr) : List Byte :=
  is.flatMap fun i =>
    match i with
    | .push bytes => bytes
    | .nop => []
    | .init => []
    | .finish => []
    | .clrerr => []

/-- The command is a PUSH with an encoding. -/
def isPush (i : Instr) : Bool :=
  match i with
  | .push bytes => (Instr.push bytes).wf
  | .nop => false
  | .init => false
  | .finish => false
  | .clrerr => false

/-- R309, PUSHB. -/
def pushB (b : Byte) : List Instr := [.push [b]]

/-- R309, PUSHW. -/
def pushW (w : Word) : List Instr := [.push (bytes32 w)]

/-- R309, UPDATE: PUSH.4 commands on groups of four, then one PUSH of the rest; no command for no bytes. -/
def update : List Byte → List Instr
  | [] => []
  | b0 :: b1 :: b2 :: b3 :: rest => .push [b0, b1, b2, b3] :: update rest
  | rest => [.push rest]

/-- R309, HASH. -/
def hash (bytes : List Byte) : List Instr := .init :: (update bytes ++ [.finish])

/-- A line of an assembly program (R308, R309). -/
inductive AsmLine where
  | instr (i : Instr)
  | word40 (cw : CommandWord)
  | pushB (b : Byte)
  | pushW (w : Word)
  | update (bytes : List Byte)
  | hash (bytes : List Byte)
  | wait
  deriving DecidableEq, Repr

/-- R308, R309: the command words of a line. WAIT is host-side and no command. -/
def assembleLine : AsmLine → List CommandWord
  | .instr i => [encode i]
  | .word40 cw => [cw]
  | .pushB b => (pushB b).map encode
  | .pushW w => (pushW w).map encode
  | .update bytes => (update bytes).map encode
  | .hash bytes => (hash bytes).map encode
  | .wait => []

/-- R309: what the host does for a line: it presents the line's words in order, or, for WAIT, reads STATUS until BUSY = 0. -/
def lineMoves : AsmLine → List HostMove
  | .wait => [.waitIdle]
  | line => (assembleLine line).map HostMove.present

/-- What the host does for a program, line by line. -/
def programMoves (lines : List AsmLine) : List HostMove := lines.flatMap lineMoves

/-- R117: the read-port address of DIGESTi. -/
def digestAddr (i : Fin 8) : BitVec 4 := BitVec.ofNat 4 (8 + i.val)

/-- R310, the library's `finish`: FINISH, then, once BUSY = 0, the eight reads DIGEST0 to DIGEST7. -/
def libraryFinish : List HostMove :=
  programMoves [.instr .finish, .wait] ++ (List.finRange 8).map fun i => .read (digestAddr i)

/-! ### SHA-256 of a message -/

/-- A message with its padding (R651, with N its length). -/
def paddedMessage (msg : List Byte) : List Byte :=
  msg ++ paddingBytes msg.length (BitVec.ofNat 64 (msg.length * 8))

/-- The first `n` blocks of 64 bytes of a byte sequence. -/
def takeBlocks : Nat → List Byte → List (List Byte)
  | 0, _ => []
  | n + 1, bytes => bytes.take 64 :: takeBlocks n (bytes.drop 64)

/-- The whole blocks of a byte sequence, in order. -/
def wholeBlocks (bytes : List Byte) : List (List Byte) := takeBlocks (bytes.length / 64) bytes

/-- The chaining value after the blocks, compressed in order (R550). -/
def compressAll (h : Vector Word 8) (blocks : List (List Byte)) : Vector Word 8 := blocks.foldl compressValue h

/-- SHA-256 of a message: the padded blocks, compressed in order from ROM_IV. -/
def sha256 (msg : List Byte) : Vector Word 8 := compressAll romIV (wholeBlocks (paddedMessage msg))

/-! ### The document's three-step update (R609) -/

/-- The bytes written to `pending` from `num_pending` on, which they fill at most: no compression. -/
def fillPending : List Byte → Nat → Memory → Memory
  | [], _, m => m
  | b :: rest, i, m => fillPending rest (i + 1) (memWrite m i b)

/-- Whole blocks compressed straight from the input, `n` of them. -/
def compressDirect : Nat → List Byte → State → State
  | 0, _, s => s
  | n + 1, bytes, s => compressDirect n (bytes.drop 64) (compressBlock (bytes.take 64) s)

/-- The remainder appended to `pending` and `num_pending` increased accordingly. -/
def bufferRest (bytes : List Byte) (s : State) : State :=
  { s with
    pending := fillPending bytes s.numPending.toNat s.pending
    numPending := s.numPending + BitVec.ofNat 6 bytes.length }

/-- R602, R609: fill and compress `pending` if it can be completed; compress whole blocks straight from the input; buffer the
remainder. -/
def threeStepUpdate (bytes : List Byte) (s : State) : State :=
  let room := 64 - s.numPending.toNat
  if bytes.length < room then bufferRest bytes s
  else
    let filled := fillPending (bytes.take room) s.numPending.toNat s.pending
    let s1 := { compressBlock (memRead filled 0 64) { s with pending := filled } with numPending := 0 }
    let tail := bytes.drop room
    let blocks := tail.length / 64
    bufferRest (tail.drop (64 * blocks)) (compressDirect blocks tail s1)

end Sys2Proof.Machine
end

