-- ==== Sys2Proof/Safety.lean ====
section
/-! DEFINITION. What counts as a safe state and a safe run: the launch states of R911, the invariant that every step keeps
(R119 with the hidden state of R701), the law of the digest registers (R657, R907), and the end of a run (R912). -/

namespace Sys2Proof.Machine

/-- How far the padding FSM has come (R653): `c` is how many bytes of message and padding there are, and the message has
`L / 8` bytes (R650). -/
def padProgress (c : Nat) (s : State) : Bool :=
  let N := s.L.toNat / 8
  decide (s.L.toNat % 8 = 0) &&
    match s.pad with
    | .none => false
    | .pad80 => decide (c = N)
    | .padz => decide (N + 1 ≤ c) && decide (c ≤ N + 1 + zeroCount N)
    | .padlen k => decide (c + k.val = N + 8 + zeroCount N)
    | .paddone => decide (c = N + 9 + zeroCount N)

/-- Between the byte that completes a block and the end of its compression: the byte is written and not yet counted (R704). -/
def blockInFlight (s : State) : Bool :=
  !s.done && decide (s.numPending = 63) &&
    match s.mode with
    | .none => false
    | .pushing => decide (s.inq.length ≤ 3) && decide (totalBytes s + 1 + s.inq.length ≤ Config.maxMessageBytes)
    | .finishing => padProgress (totalBytes s + 1) s

/-- R119 (clause 2) once FINISH has appended its padding: message and padding bytes together are whole blocks, at least one, and
no more than the longest message takes (R651, R655). -/
def paddedTotal (s : State) : Bool :=
  decide (s.numPending = 0) && decide (1 ≤ s.completedBlocks.toNat) && decide (totalBytes s ≤ Config.maxMessageBytes + 72)

/-- The invariant of R119 (clause 2; clause 1 holds of every value of the register) and R803 at a command boundary, and of the
hidden state in between. -/
def safeState (s : State) : Bool :=
  Memory.wf s.pending &&
    match s.fsm with
    | .idle =>
      if s.done then paddedTotal s else decide (totalBytes s ≤ Config.maxMessageBytes)
    | .append =>
      !s.done && decide (s.mode = .pushing) && !s.inq.isEmpty && decide (s.inq.length ≤ 4) &&
        decide (totalBytes s + s.inq.length ≤ Config.maxMessageBytes)
    | .pad => !s.done && decide (s.mode = .finishing) && padProgress (totalBytes s) s
    | .load => blockInFlight s
    | .round => blockInFlight s
    | .feedback => blockInFlight s
    | .capture => !s.done && decide (s.mode = .finishing) && paddedTotal s

/-- R911: a state a run may start from: `fsm = IDLE` and the invariant. -/
def launchState (s : State) : Bool := decide (s.fsm = .idle) && safeState s

/-- R657, R907: in the DONE phase the digest registers hold the chaining value, no byte is pending and no command is in progress;
in the ACCEPT phase the digest registers hold 0. -/
def digestLaw (s : State) : Prop :=
  if s.done then s.fsm = .idle ∧ s.digest = s.state ∧ s.numPending = 0 else s.digest = Vector.replicate 8 0

/-- A step that neither stops nor refuses. -/
def safeStep (s : State) : Prop := ∃ t, step s = .next t

/-- R912: the host presents words, reads and waits, and asserts no reset after launch. -/
def noReset (s : State) : Bool :=
  s.inputs.all fun m =>
    match m with
    | .present _ => true
    | .read _ => true
    | .reset => false
    | .wait => true
    | .waitIdle => true

/-- R912: every command word of the run has been accepted. What else the host does, a read or a wait, may still be ahead. -/
def allAccepted (s : State) : Bool :=
  s.inputs.all fun m =>
    match m with
    | .present _ => false
    | .read _ => true
    | .reset => true
    | .wait => true
    | .waitIdle => true

/-- R912: every command has been accepted and BUSY = 0. -/
def runEnded (s : State) : Bool := allAccepted s && !busy s

/-- R912: the run from `s` ends after `k` steps, in `t`: the first step at which it has ended. Its result is `readAll t`. -/
def runEndsAt (k : Nat) (s t : State) : Prop :=
  Host.Core.run core k s = .next t ∧ runEnded t = true ∧
    ∀ m, m < k → ∃ u : State, Host.Core.run core m s = .next u ∧ runEnded u = false

end Sys2Proof.Machine
end

