-- ==== Sys2Proof/Certificates/Slice0/Obligations.lean ====
section
/-! DEFINITION. The statements for the provers. Each docstring names the rule of spec/ it formalises, or the rules it is derived
from. "A launch state" is a state of R911 (`launchState`); "a safe state" is a state that meets the invariant of R119 and R803
(`safeState`). A record `{ s with f := t.f }` on the right of `t =` says that every other field is unchanged. -/

open Sys2Proof Sys2Proof.Machine

/-! ### Encoding -/

/-- R300 to R303, R308: decoding the word of an encodable command gives the command back, with every operand. -/
def Obligations.DecodeEncodeRoundTrip : Prop :=
  ∀ i : Instr, i.wf = true → decode (encode i) = .ok i

/-- R301, R305: OP alone selects the command, and 0x5 to 0xF select none. -/
def Obligations.OpcodeAloneSelectsCommand : Prop :=
  ∀ cw : CommandWord,
    (opField cw = 0x0 → decode cw = .ok .nop) ∧
    (opField cw = 0x1 → decode cw = .ok .init) ∧
    (opField cw = 0x2 → ∃ bytes, decode cw = .ok (.push bytes)) ∧
    (opField cw = 0x3 → decode cw = .ok .finish) ∧
    (opField cw = 0x4 → decode cw = .ok .clrerr) ∧
    (0x5 ≤ (opField cw).toNat → decode cw = .error (.illegalOp (opField cw)))

/-- R302, R303: the byte count is NBM1 + 1 and `byte(k) = DATA[31-8k : 24-8k]`, bit by bit of the command word. -/
def Obligations.PushOperandsComeFromTheWord : Prop :=
  ∀ cw : CommandWord, opField cw = 0x2 →
    ∃ bytes, decode cw = .ok (.push bytes) ∧
      bytes.length = (cw.extractLsb' 34 2).toNat + 1 ∧
      ∀ k, k < bytes.length → ∃ b, bytes[k]? = some b ∧
        ∀ j, j < 8 → b.getLsbD j = cw.getLsbD (24 - 8 * k + j)

/-- R304: two words with the same OP, and for PUSH the same NBM1 and the same used bytes, are the same command. -/
def Obligations.IgnoredFieldsDoNotMatter : Prop :=
  ∀ cw cw' : CommandWord, opField cw = opField cw' →
    (opField cw = 0x2 → nbm1Field cw = nbm1Field cw' ∧
      ∀ k, k ≤ (nbm1Field cw).toNat → dataByte (dataField cw) k = dataByte (dataField cw') k) →
    decode cw = decode cw'

/-- R308: encoding what a word decodes to writes 0 in every ignored place and keeps the rest. -/
def Obligations.EncodeWritesIgnoredFieldsZero : Prop :=
  ∀ (cw : CommandWord) (i : Instr), decode cw = .ok i →
    i.wf = true ∧ opField (encode i) = opField cw ∧ rsvdField (encode i) = 0 ∧
    (opField cw = 0x2 → nbm1Field (encode i) = nbm1Field cw ∧
      ∀ k, k < 4 → dataByte (dataField (encode i)) k =
        if k ≤ (nbm1Field cw).toNat then dataByte (dataField cw) k else 0) ∧
    (opField cw ≠ 0x2 → nbm1Field (encode i) = 0 ∧ dataField (encode i) = 0)

/-- Words of spec/30_encoding.md and of sections 2.5 and 2.8 of spec/95_test_vectors.md, written out. -/
def Obligations.SpecWordsDecode : Prop :=
  decode 0x0000000000 = .ok .nop ∧ decode 0x1000000000 = .ok .init ∧
  decode 0x2061000000 = .ok (.push [0x61]) ∧ decode 0x2461620000 = .ok (.push [0x61, 0x62]) ∧
  decode 0x2861626300 = .ok (.push [0x61, 0x62, 0x63]) ∧
  decode 0x2c61626364 = .ok (.push [0x61, 0x62, 0x63, 0x64]) ∧
  decode 0x3000000000 = .ok .finish ∧ decode 0x4000000000 = .ok .clrerr ∧
  decode 0x2b616263ff = .ok (.push [0x61, 0x62, 0x63]) ∧ decode 0x1fffffffff = .ok .init ∧
  decode 0x5000000000 = .error (.illegalOp 0x5) ∧ decode 0xffffffffff = .error (.illegalOp 0xf)

/-! ### Reset and the host's moves -/

/-- R120, R900: the values the spec gives for the state after reset, and the sixteen read-port values. What the spec gives no
value (`L`, `w`, `a..h`, `t`) is not stated; that no pending byte has been written is R120's "unwritten". -/
def Obligations.ResetStateValues : Prop :=
  State.reset.state = romIV ∧ State.reset.completedBlocks = 0 ∧ State.reset.pending = [] ∧
  State.reset.numPending = 0 ∧ State.reset.done = false ∧ State.reset.errcode = 0 ∧
  State.reset.digest = Vector.replicate 8 0 ∧ State.reset.fsm = .idle ∧ State.reset.mode = .none ∧
  State.reset.inq = [] ∧ State.reset.pad = .none ∧
  readAll State.reset = List.replicate 16 0

/-- R900: at a step with `rst = 1`, whatever the engine is doing, exactly the writes of the rule happen, no command is accepted,
and afterwards every read-port value is 0; a reset that is held has the same effect. -/
def Obligations.ResetAtAnyStep : Prop :=
  ∀ (s : State) (rest : List HostMove), s.inputs = .reset :: rest →
    ∃ t, step s = .next t ∧
      t = { s with
        inputs := rest, state := romIV, completedBlocks := 0, numPending := 0, done := false, errcode := 0
        digest := Vector.replicate 8 0, fsm := .idle, mode := .none, inq := [], pad := .none } ∧
      readAll t = List.replicate 16 0 ∧
      ∀ rest', rest = .reset :: rest' → step t = .next { t with inputs := rest' }

/-- R600, R601, R213: at a command boundary of the transaction level, a step accepts the presented word and is `exec` of the
decoded command, with the word taken off the host's moves. -/
def Obligations.StepRunsAcceptedCommand : Prop :=
  ∀ (s : State) (cw : CommandWord) (rest : List HostMove) (i : Instr),
    launchState s = true → s.level = .transaction → s.inputs = .present cw :: rest → decode cw = .ok i →
    step s = exec i { s with inputs := rest }

/-- R703: at a command boundary of the micro level, a step is the acceptance step of the decoded command. -/
def Obligations.MicroStepAcceptsCommand : Prop :=
  ∀ (s : State) (cw : CommandWord) (rest : List HostMove) (i : Instr),
    launchState s = true → s.level = .micro → s.inputs = .present cw :: rest → decode cw = .ok i →
    step s = .next (acceptCommand i { s with inputs := rest })

/-- R601, R800, R804, R805, R806: the checks are made in the order ILLEGAL_OP, SEQUENCE, LENGTH, whatever the level. The first that
fails records its code if `errcode` was 0 and changes nothing else; with none failing no error is recorded, and `errcode` is
changed by CLRERR alone. -/
def Obligations.CommandChecksInOrder : Prop :=
  ∀ (s : State) (cw : CommandWord) (rest : List HostMove),
    launchState s = true → s.inputs = .present cw :: rest →
    let op := (opField cw).toNat
    let n := (nbm1Field cw).toNat + 1
    let code : BitVec 2 :=
      if 0x5 ≤ op then 1
      else if (op = 0x2 ∨ op = 0x3) ∧ s.done = true then 2
      else if op = 0x2 ∧ 2 ^ 61 - 1 < s.completedBlocks.toNat * 64 + s.numPending.toNat + n then 3
      else 0
    (code ≠ 0 →
      step s = .next { s with inputs := rest, errcode := if s.errcode = 0 then code else s.errcode }) ∧
    (code = 0 → ∃ t, step s = .next t ∧ t.errcode = if op = 0x4 then 0 else s.errcode)

/-- R600, R905: while BUSY = 1 a presented word is neither accepted nor lost; the engine takes its own micro-step. -/
def Obligations.PresentedWordHeldWhileBusy : Prop :=
  ∀ (s : State) (cw : CommandWord) (rest : List HostMove),
    safeState s = true → busy s = true → s.inputs = .present cw :: rest →
    ∃ t, step s = .next t ∧ t.inputs = s.inputs ∧ t.errcode = s.errcode ∧
      step { s with inputs := [] } = .next { t with inputs := [] }

/-- R702, R817: at a command boundary with no command presented the engine keeps its state. -/
def Obligations.IdleEngineKeepsItsState : Prop :=
  ∀ s : State, launchState s = true →
    (s.inputs = [] → step s = .next s) ∧
    (∀ rest, s.inputs = .wait :: rest → step s = .next { s with inputs := rest })

/-- R210, R906, R910: a read has no side effect, and the host may read any number of times at any step. In every safe state, busy
or not, a read changes only the value delivered and the count of reads (the model's own fields, log entries 3 and 4), and as many
reads as the host makes leave the engine at the same point (log entry 11: the engine makes no transition between them). The value
is the one of the read port for the number of that read; with BUSY = 0 it is the addressed register. -/
def Obligations.ReadsHaveNoSideEffect : Prop :=
  (∀ (s : State) (addr : BitVec 4) (rest : List HostMove), safeState s = true → s.inputs = .read addr :: rest →
    step s = .next { s with inputs := rest, rdata := readPort s.draws s addr, draws := s.draws + 1 } ∧
    (s.fsm = .idle → readPort s.draws s addr = registerRead s addr)) ∧
  ∀ (s : State) (addrs : List (BitVec 4)) (rest : List HostMove), safeState s = true →
    s.inputs = addrs.map HostMove.read ++ rest →
    ∃ t : State, Host.Core.run core addrs.length s = .next t ∧
      t = { s with inputs := rest, rdata := t.rdata, draws := s.draws + addrs.length } ∧
      ∀ before addr, addrs = before ++ [addr] → t.rdata = readPort (s.draws + before.length) s addr

/-- R115 to R118, R906: the read-port map. At BUSY = 0 the fields of STATUS, BLOCKS_LO, BLOCKS_HI, the reserved addresses and the
digest words, whatever the number of the read; at BUSY = 1 bit 0 of STATUS is 1. -/
def Obligations.ReadPortShowsTheRegisters : Prop :=
  ∀ (s : State) (draw : Nat),
    (s.fsm = .idle →
      (readPort draw s 0).getLsbD 0 = false ∧
      (readPort draw s 0).getLsbD 1 = s.done ∧
      (readPort draw s 0).extractLsb' 2 2 = s.errcode ∧
      (readPort draw s 0).extractLsb' 4 4 = 0 ∧
      (readPort draw s 0).extractLsb' 8 6 = s.numPending ∧
      (readPort draw s 0).extractLsb' 14 18 = 0 ∧
      readPort draw s 1 = s.completedBlocks.extractLsb' 0 32 ∧
      readPort draw s 2 = s.completedBlocks.extractLsb' 32 32 ∧
      (∀ a : BitVec 4, 3 ≤ a.toNat → a.toNat ≤ 7 → readPort draw s a = 0) ∧
      (∀ i : Fin 8, readPort draw s (BitVec.ofNat 4 (8 + i.val)) = s.digest[i])) ∧
    (s.fsm ≠ .idle → (readPort draw s 0).getLsbD 0 = true)

/-! ### The commands -/

/-- R603: NOP has no effect, in both phases, whatever its ignored fields hold, and never sets BUSY. -/
def Obligations.NopHasNoEffect : Prop :=
  (∀ s : State, exec .nop s = .next s) ∧
  ∀ (s : State) (cw : CommandWord) (rest : List HostMove),
    launchState s = true → s.inputs = .present cw :: rest → opField cw = 0x0 →
    step s = .next { s with inputs := rest }

/-- R604: INIT gives a fresh context in every phase, keeps `errcode` and the pending bytes, and never sets BUSY. -/
def Obligations.InitGivesFreshContext : Prop :=
  (∀ s : State, exec .init s = .next
    { s with state := romIV, completedBlocks := 0, numPending := 0, done := false, digest := Vector.replicate 8 0 }) ∧
  ∀ (s : State) (cw : CommandWord) (rest : List HostMove),
    launchState s = true → s.inputs = .present cw :: rest → opField cw = 0x1 →
    step s = .next { s with
      inputs := rest, state := romIV, completedBlocks := 0, numPending := 0, done := false
      digest := Vector.replicate 8 0 }

/-- R607: CLRERR clears `errcode` and changes nothing else, in both phases, and never sets BUSY. -/
def Obligations.ClrerrClearsErrcodeOnly : Prop :=
  (∀ s : State, exec .clrerr s = .next { s with errcode := 0 }) ∧
  ∀ (s : State) (cw : CommandWord) (rest : List HostMove),
    launchState s = true → s.inputs = .present cw :: rest → opField cw = 0x4 →
    step s = .next { s with inputs := rest, errcode := 0 }

/-- R602, R605: a PUSH that completes no block: result and frame. Byte `k` goes to address `num_pending + k`; every other byte of
the buffer and every register but `num_pending` is unchanged, but for the hidden `mode` and `inq`, which R703 and R704 write. -/
def Obligations.PushWithinABlock : Prop :=
  ∀ (s : State) (bytes : List Byte), s.done = false →
    totalBytes s + bytes.length ≤ Config.maxMessageBytes → s.numPending.toNat + bytes.length < 64 →
    ∃ t, exec (.push bytes) s = .next t ∧
      t = { s with pending := t.pending, numPending := t.numPending, mode := t.mode, inq := t.inq } ∧
      t.numPending.toNat = s.numPending.toNat + bytes.length ∧
      (∀ k, k < bytes.length → memLookup t.pending (s.numPending.toNat + k) = bytes[k]?) ∧
      ∀ a, (∀ k, k < bytes.length → a ≠ s.numPending.toNat + k) →
        memLookup t.pending a = memLookup s.pending a

/-- R602, R605, R550: a PUSH that completes a block: the block is the valid pending bytes and the first bytes of the PUSH; it is
compressed into the chaining value and counted, and the remaining bytes go into the new block. Frame: every byte of the buffer
that is not stored to, and every register but the ones named. -/
def Obligations.PushCompletingABlock : Prop :=
  ∀ (s : State) (bytes : List Byte), (Instr.push bytes).wf = true → s.done = false →
    totalBytes s + bytes.length ≤ Config.maxMessageBytes → 64 ≤ s.numPending.toNat + bytes.length →
    ∃ t, exec (.push bytes) s = .next t ∧
      t = { s with
        state := t.state, completedBlocks := t.completedBlocks, pending := t.pending, numPending := t.numPending
        mode := t.mode, inq := t.inq, w := t.w, working := t.working, t := t.t } ∧
      t.state = compressValue s.state (validBytes s ++ bytes.take (64 - s.numPending.toNat)) ∧
      t.completedBlocks.toNat = s.completedBlocks.toNat + 1 ∧
      t.numPending.toNat + 64 = s.numPending.toNat + bytes.length ∧
      (∀ k, k < bytes.length → memLookup t.pending ((s.numPending.toNat + k) % 64) = bytes[k]?) ∧
      ∀ a, (∀ k, k < bytes.length → a ≠ (s.numPending.toNat + k) % 64) →
        memLookup t.pending a = memLookup s.pending a

/-- R803, R805: a PUSH past MAX_MESSAGE_BYTES = 2^61 - 1 in the ACCEPT phase records LENGTH and appends none of its bytes; FINISH
never records LENGTH. -/
def Obligations.PushPastTheLimitRecordsLength : Prop :=
  (∀ (s : State) (bytes : List Byte), s.done = false →
    2 ^ 61 - 1 < s.completedBlocks.toNat * 64 + s.numPending.toNat + bytes.length →
    exec (.push bytes) s = .next { s with errcode := if s.errcode = 0 then 3 else s.errcode }) ∧
  ∀ s t : State, exec .finish s = .next t → s.errcode ≠ 3 → t.errcode ≠ 3

/-- R802, R805: PUSH and FINISH in the DONE phase record SEQUENCE and change nothing else, however long the message; NOP, INIT and
CLRERR never record it. -/
def Obligations.ConsumedContextRecordsSequence : Prop :=
  (∀ (s : State) (bytes : List Byte), s.done = true →
    exec (.push bytes) s = .next { s with errcode := if s.errcode = 0 then 2 else s.errcode }) ∧
  (∀ s : State, s.done = true →
    exec .finish s = .next { s with errcode := if s.errcode = 0 then 2 else s.errcode }) ∧
  ∀ (i : Instr) (s t : State), i = .nop ∨ i = .init ∨ i = .clrerr → exec i s = .next t →
    s.errcode ≠ 2 → t.errcode ≠ 2

/-- R650, R655, R656, R657: FINISH in the ACCEPT phase: result and frame. Padding byte `k` goes to address
`(num_pending + k) mod 64`; a byte of the buffer that no padding byte is stored to is unchanged, and so is every register but
the ones named. -/
def Obligations.FinishPadsAndCaptures : Prop :=
  ∀ s : State, s.done = false → totalBytes s ≤ Config.maxMessageBytes →
    let padding := paddingBytes (totalBytes s) (BitVec.ofNat 64 (totalBytes s * 8))
    ∃ t, exec .finish s = .next t ∧
      t = { s with
        state := t.state, completedBlocks := t.completedBlocks, pending := t.pending, numPending := 0
        done := true, digest := t.state, mode := t.mode, pad := t.pad
        L := BitVec.ofNat 64 (totalBytes s * 8), w := t.w, working := t.working, t := t.t } ∧
      t.L.toNat = totalBytes s * 8 ∧
      t.completedBlocks.toNat = s.completedBlocks.toNat + (if totalBytes s % 64 < 56 then 1 else 2) ∧
      t.completedBlocks.toNat = (totalBytes s + padding.length) / 64 ∧
      (∀ k, k < padding.length → padding.length ≤ k + 64 →
        memLookup t.pending ((s.numPending.toNat + k) % 64) = padding[k]?) ∧
      ∀ a, (∀ k, k < padding.length → a ≠ (s.numPending.toNat + k) % 64) →
        memLookup t.pending a = memLookup s.pending a

/-- R654, R656: the digest FINISH captures is the chaining value after the blocks of the pending tail and its padding, compressed
in order. -/
def Obligations.FinishDigestsThePaddedTail : Prop :=
  ∀ s : State, s.done = false → totalBytes s ≤ Config.maxMessageBytes →
    ∃ t, exec .finish s = .next t ∧
      t.digest = compressAll s.state (wholeBlocks
        (validBytes s ++ paddingBytes (totalBytes s) (BitVec.ofNat 64 (totalBytes s * 8))))

/-- R657, R907: in the DONE phase no command but INIT changes the chaining value, the counters, the buffer, the digest or the
phase. -/
def Obligations.DoneContextStaysFixed : Prop :=
  ∀ (i : Instr) (s t : State), s.done = true → i ≠ .init → exec i s = .next t →
    t.state = s.state ∧ t.completedBlocks = s.completedBlocks ∧ t.numPending = s.numPending ∧
    t.pending = s.pending ∧ t.digest = s.digest ∧ t.done = true

/-- R105: `done` is cleared only by INIT and reset, and set only by FINISH (at the micro level, by its CAPTURE step). -/
def Obligations.OnlyFinishAndInitMoveThePhase : Prop :=
  ∀ s t : State, step s = .next t →
    (s.done = true → t.done = false →
      (∃ rest, s.inputs = .reset :: rest) ∨
      ∃ cw rest, s.inputs = .present cw :: rest ∧ s.fsm = .idle ∧ decode cw = .ok .init) ∧
    (s.done = false → t.done = true →
      s.fsm = .capture ∨
      ∃ cw rest, s.inputs = .present cw :: rest ∧ s.fsm = .idle ∧ decode cw = .ok .finish)

/-- R106, R804: `errcode` is cleared only by CLRERR and reset, and otherwise changes only from 0, at the acceptance of a word that
is neither NOP nor INIT nor CLRERR. -/
def Obligations.ErrcodeKeepsTheFirstError : Prop :=
  ∀ s t : State, step s = .next t → t.errcode ≠ s.errcode →
    (t.errcode = 0 ∧ ∃ rest, s.inputs = .reset :: rest) ∨
    ∃ cw rest, s.inputs = .present cw :: rest ∧ s.fsm = .idle ∧
      ((t.errcode = 0 ∧ decode cw = .ok .clrerr) ∨
       (s.errcode = 0 ∧ decode cw ≠ .ok .nop ∧ decode cw ≠ .ok .init ∧ decode cw ≠ .ok .clrerr))

/-! ### Streaming -/

/-- R101, R816: the read port shows nothing of the chaining value or of the pending bytes before FINISH: two runs of the same commands
without FINISH, from states that differ in these two only, end with the same sixteen read-port values. -/
def Obligations.ReadPortHidesMidStreamState : Prop :=
  ∀ (is : List Instr) (s t : State) (v : Vector Word 8) (m : Memory), s.fsm = .idle →
    (∀ i, i ∈ is → i ≠ .finish) → runInstrs is s = .next t →
    ∃ t', runInstrs is { s with state := v, pending := m } = .next t' ∧ readAll t' = readAll t

/-- R608: two sequences of PUSH commands that carry the same bytes and raise no error leave the same state. -/
def Obligations.StreamingEquivalence : Prop :=
  ∀ (is js : List Instr) (s : State), is.all isPush = true → js.all isPush = true →
    carriedBytes is = carriedBytes js → s.done = false →
    totalBytes s + (carriedBytes is).length ≤ Config.maxMessageBytes →
    ∃ t, runInstrs is s = .next t ∧ runInstrs js s = .next t ∧ t.errcode = s.errcode

/-- R609: appending byte by byte and the document's three-step update leave the same chaining value, counters and valid pending
bytes. -/
def Obligations.ThreeStepUpdateIsAppending : Prop :=
  ∀ (bytes : List Byte) (s : State),
    (appendBytes bytes s).state = (threeStepUpdate bytes s).state ∧
    (appendBytes bytes s).completedBlocks = (threeStepUpdate bytes s).completedBlocks ∧
    (appendBytes bytes s).numPending = (threeStepUpdate bytes s).numPending ∧
    validBytes (appendBytes bytes s) = validBytes (threeStepUpdate bytes s)

/-- R309, R610: UPDATE of a byte sequence within the limit carries exactly its bytes in PUSH commands, raises no error and adds
their number to the bytes accepted; for no bytes nothing changes; after a multiple of 64 bytes from a fresh context nothing is
pending. -/
def Obligations.UpdateAccountsForEveryByte : Prop :=
  ∀ (bytes : List Byte) (s : State), s.done = false → totalBytes s + bytes.length ≤ Config.maxMessageBytes →
    (update bytes).all isPush = true ∧ carriedBytes (update bytes) = bytes ∧
    ∃ t, runInstrs (update bytes) s = .next t ∧ t.errcode = s.errcode ∧
      totalBytes t = totalBytes s + bytes.length ∧
      (bytes = [] → t = s) ∧
      (totalBytes s = 0 → bytes.length % 64 = 0 →
        t.numPending = 0 ∧ t.completedBlocks.toNat = bytes.length / 64)

/-- R1, R309, R550, R651, R655: from any state, HASH of a message of at most 2^61 - 1 bytes leaves in the digest registers SHA-256
of the message: its padded blocks, compressed in order from ROM_IV. -/
def Obligations.HashComputesSha256 : Prop :=
  ∀ (msg : List Byte) (s : State), msg.length ≤ Config.maxMessageBytes →
    ∃ t, runInstrs (hash msg) s = .next t ∧ t.digest = sha256 msg ∧ t.done = true ∧
      t.numPending = 0 ∧ t.errcode = s.errcode ∧
      t.completedBlocks.toNat = (paddedMessage msg).length / 64

/-- R213, R600: the words of a sequence of commands, presented on the port one after the other at the transaction level, are
performed in that order and no other. -/
def Obligations.PortPerformsCommandsInOrder : Prop :=
  ∀ (is : List Instr) (s : State) (rest : List HostMove),
    launchState s = true → s.level = .transaction → is.all Instr.wf = true →
    s.inputs = is.map (fun i => HostMove.present (encode i)) ++ rest →
    Host.Core.run core is.length s = runInstrs is { s with inputs := rest }

/-! ### The datapath -/

/-- R411, R412: Ch chooses and Maj takes the majority, bit by bit; both equal their forms with OR. -/
def Obligations.ChooseAndMajorityBitwise : Prop :=
  (∀ (e f g : Word) (i : Nat), (ch e f g).getLsbD i = if e.getLsbD i then f.getLsbD i else g.getLsbD i) ∧
  (∀ (a b c : Word) (i : Nat), i < 32 →
    ((maj a b c).getLsbD i = true ↔
      2 ≤ (a.getLsbD i).toNat + (b.getLsbD i).toNat + (c.getLsbD i).toNat)) ∧
  (∀ e f g : Word, ch e f g = chOr e f g) ∧ (∀ a b c : Word, maj a b c = majOr a b c)

/-- R405, R406: rotation and shift bit by bit, for every amount, and no bit is lost in a rotation. -/
def Obligations.RotateAndShiftBitwise : Prop :=
  (∀ (x : Word) (n i : Nat), i < 32 → (rotr x n).getLsbD i = x.getLsbD ((i + n) % 32)) ∧
  (∀ (x : Word) (n i : Nat), i < 32 → (shr x n).getLsbD i = if i + n ≤ 31 then x.getLsbD (i + n) else false) ∧
  (∀ (x : Word) (n : Nat), n ≤ 32 → rotr (rotr x n) (32 - n) = x)

/-- R407 to R410: the four sigma functions are linear over XOR. -/
def Obligations.SigmaFunctionsAreLinear : Prop :=
  ∀ x y : Word,
    bigSigma0 (x ^^^ y) = bigSigma0 x ^^^ bigSigma0 y ∧ bigSigma1 (x ^^^ y) = bigSigma1 x ^^^ bigSigma1 y ∧
    smallSigma0 (x ^^^ y) = smallSigma0 x ^^^ smallSigma0 y ∧
    smallSigma1 (x ^^^ y) = smallSigma1 x ^^^ smallSigma1 y

/-- R450, R451, R452, R454: the converter is big-endian, its two directions are inverse, and the digest's byte `j` is
`digest[j / 4][31 - 8(j mod 4) : 24 - 8(j mod 4)]`. -/
def Obligations.ConverterIsBigEndian : Prop :=
  (∀ b0 b1 b2 b3 : Byte, be32 b0 b1 b2 b3 = b0 ++ b1 ++ b2 ++ b3 ∧ bytes32 (be32 b0 b1 b2 b3) = [b0, b1, b2, b3]) ∧
  (∀ w : Word, bytes32 w = [w.extractLsb' 24 8, w.extractLsb' 16 8, w.extractLsb' 8 8, w.extractLsb' 0 8] ∧
    be32 (w.extractLsb' 24 8) (w.extractLsb' 16 8) (w.extractLsb' 8 8) (w.extractLsb' 0 8) = w) ∧
  (∀ v : BitVec 64, (bytes64 v).length = 8 ∧
    ∀ k, k < 8 → (bytes64 v)[k]? = some (v.extractLsb' (56 - 8 * k) 8)) ∧
  (∀ d : Vector Word 8, (digestBytes d).length = 32 ∧
    ∀ (j : Fin 8) (k : Nat), k < 4 →
      (digestBytes d)[4 * j.val + k]? = some (d[j].extractLsb' (24 - 8 * k) 8))

/-- R453, R500, R501: the schedule has 64 words, the first sixteen the big-endian words of the block, each later one the sum of the
rule. -/
def Obligations.ScheduleObeysTheExpansion : Prop :=
  ∀ block : List Byte,
    (schedule block).length = 64 ∧
    (∀ i, i < 16 → (schedule block).getD i 0 =
      be32 (block.getD (4 * i) 0) (block.getD (4 * i + 1) 0) (block.getD (4 * i + 2) 0) (block.getD (4 * i + 3) 0)) ∧
    ∀ i, 16 ≤ i → i < 64 → (schedule block).getD i 0 =
      (schedule block).getD (i - 16) 0
        + (rotr ((schedule block).getD (i - 15) 0) 7 ^^^ rotr ((schedule block).getD (i - 15) 0) 18
            ^^^ shr ((schedule block).getD (i - 15) 0) 3)
        + (schedule block).getD (i - 7) 0
        + (rotr ((schedule block).getD (i - 2) 0) 17 ^^^ rotr ((schedule block).getD (i - 2) 0) 19
            ^^^ shr ((schedule block).getD (i - 2) 0) 10)

/-- R651: the padding sequence, its length, and that it fills the last block. -/
def Obligations.PaddingFillsTheLastBlock : Prop :=
  ∀ (N : Nat) (L : BitVec 64), ∃ z, z < 64 ∧
    paddingBytes N L = [0x80] ++ List.replicate z 0 ++ bytes64 L ∧
    (paddingBytes N L).length = 9 + z ∧
    (N + 1 + z) % 64 = 56 ∧ (N + (paddingBytes N L).length) % 64 = 0 ∧
    (paddingBytes N L).length = if N % 64 ≤ 55 then 64 - N % 64 else 128 - N % 64

/-! ### The iterative datapath -/

/-- R706, R707: from LOAD, before round `t` the window holds the schedule words `W[t-16..t-1]` (for `t < 16`, `W[0..15]`) with
`W[k]` at `w[k mod 16]`, and the working variables are those of the rounds so far; after FEEDBACK the chaining value is the
compression function's. -/
def Obligations.WindowComputesTheSchedule : Prop :=
  ∀ s : State, s.fsm = .load →
    let block := memRead s.pending 0 64
    (∀ k, k < 64 →
      let u := busySteps 1 (k + 1) s
      u.fsm = .round ∧ u.t.toNat = k ∧ u.working = runRounds (schedule block) (List.range k) (workingOf s.state) ∧
      ∀ i, i < 64 → k ≤ i + 16 → i < max k 16 → u.w.toList.getD (i % 16) 0 = (schedule block).getD i 0) ∧
    (busySteps 1 65 s).fsm = .feedback ∧
    (busySteps 1 65 s).working = finalWorking s.state block ∧
    (busySteps 1 66 s).state = compressValue s.state block

/-- R710 for PUSH: an accepted PUSH, run by micro-steps with any number of rounds per step, ends at IDLE within 70 micro-steps in
the state its transaction-level meaning gives. That the hidden registers agree too is the model's choice (log entry 7). -/
def Obligations.PushMicroStepsRefineTransaction : Prop :=
  ∀ (r : Nat) (bytes : List Byte) (s : State), 1 ≤ r → (Instr.push bytes).wf = true → s.fsm = .idle →
    s.done = false → totalBytes s + bytes.length ≤ Config.maxMessageBytes →
    ∃ n, n ≤ 70 ∧ (busySteps r n (acceptCommand (.push bytes) s)).fsm = .idle ∧
      exec (.push bytes) s = .next (busySteps r n (acceptCommand (.push bytes) s))

/-- R710 for FINISH: an accepted FINISH ends at IDLE within 207 micro-steps in the state its transaction-level meaning gives. That
the hidden registers agree too is the model's choice (log entry 7). -/
def Obligations.FinishMicroStepsRefineTransaction : Prop :=
  ∀ (r : Nat) (s : State), 1 ≤ r → s.fsm = .idle → s.done = false →
    ∃ n, n ≤ 207 ∧ (busySteps r n (acceptCommand .finish s)).fsm = .idle ∧
      exec .finish s = .next (busySteps r n (acceptCommand .finish s))

/-- R703, R710: NOP, INIT, CLRERR and every command that raises an error complete in the acceptance step: BUSY never becomes 1, and
acceptance is the transaction-level meaning. -/
def Obligations.UnbusyCommandsCompleteAtAcceptance : Prop :=
  ∀ (i : Instr) (s : State), s.fsm = .idle →
    (i = .nop ∨ i = .init ∨ i = .clrerr ∨ (i = .finish ∧ s.done = true) ∨
      (∃ bytes, i = .push bytes ∧
        (s.done = true ∨ Config.maxMessageBytes < totalBytes s + bytes.length))) →
    exec i s = .next (acceptCommand i s) ∧ (acceptCommand i s).fsm = .idle

/-- R711: the exact numbers of busy micro-steps of the reference realisation (one round per step). -/
def Obligations.ReferenceMicroStepCounts : Prop :=
  (∀ (bytes : List Byte) (s : State), (Instr.push bytes).wf = true → s.fsm = .idle → s.done = false →
    totalBytes s + bytes.length ≤ Config.maxMessageBytes →
    let count := if s.numPending.toNat + bytes.length < 64 then bytes.length else bytes.length + 66
    (busySteps 1 count (acceptCommand (.push bytes) s)).fsm = .idle ∧
    ∀ m, m < count → busy (busySteps 1 m (acceptCommand (.push bytes) s)) = true) ∧
  ∀ s : State, s.fsm = .idle → s.done = false → totalBytes s ≤ Config.maxMessageBytes →
    let p := totalBytes s % 64
    let count := 9 + zeroCount (totalBytes s) + 3 + 66 * (if p < 56 then 1 else 2)
    (busySteps 1 count (acceptCommand .finish s)).fsm = .idle ∧
    ∀ m, m < count → busy (busySteps 1 m (acceptCommand .finish s)) = true

/-- R710, R909: a busy engine never hangs: from every safe state it is at IDLE within 207 of its own micro-steps, whatever the
number of rounds per step. -/
def Obligations.BusyEngineReachesIdle : Prop :=
  ∀ (r : Nat) (s : State), 1 ≤ r → safeState s = true → ∃ n, n ≤ 207 ∧ (busySteps r n s).fsm = .idle

/-! ### Invariants and safety -/

/-- R120, R911: the state after reset is a launch state and obeys the law of the digest registers. -/
def Obligations.ResetStateIsSafe : Prop :=
  launchState State.reset = true ∧ digestLaw State.reset

/-- R119, R103, R803: every step of the machine, at either level and for every move of the host, keeps the safe states: the
pending buffer stays in canonical form within its 64 addresses, the message stays within its limit, and the hidden sequencing
state stays one to which a rule applies. -/
def Obligations.EveryStepKeepsSafeStates : Prop :=
  ∀ s t : State, safeState s = true → step s = .next t → safeState t = true

/-- R807, R809, row U3 of spec/93_implementation_defined.md: in a safe state the machine never stops, whatever the host does: there
is no lock-up state, and the fault of row U3 cannot arise. -/
def Obligations.SafeStatesNeverStop : Prop :=
  ∀ s : State, safeState s = true → safeStep s

/-- Row U3 of spec/93_implementation_defined.md: with BUSY = 0, `done = 0` and more than 2^61 - 1 message bytes, every step that is
not a reset stops the machine with the fault named for it (log entry 9). -/
def Obligations.StatePastTheLimitFaults : Prop :=
  ∀ s : State, s.fsm = .idle → s.done = false →
    2 ^ 61 - 1 < s.completedBlocks.toNat * 64 + s.numPending.toNat →
    (∀ rest, s.inputs ≠ .reset :: rest) → step s = .fault .lengthInvariantBroken

/-- R657, R907: every step keeps the law of the digest registers. -/
def Obligations.EveryStepKeepsTheDigestLaw : Prop :=
  ∀ s t : State, safeState s = true → digestLaw s → step s = .next t → digestLaw t

/-- R102, R803: the block counter never exceeds 2^55 + 1. -/
def Obligations.BlockCounterStaysBelowItsModulus : Prop :=
  ∀ s : State, safeState s = true → s.completedBlocks.toNat ≤ 2 ^ 55 + 1

/-- R909, R912: a run without a reset ends, whatever the host reads or waits for in between: at its first step at which every word
has been accepted and BUSY = 0, within 208 steps for each move of the host and 208 more. Its result there, the sixteen read-port
values, is the registers'. -/
def Obligations.RunOfCommandsEnds : Prop :=
  ∀ s : State, safeState s = true → noReset s = true →
    ∃ (k : Nat) (t : State), k ≤ 208 * (s.inputs.length + 1) ∧ runEndsAt k s t ∧
      readAll t = (List.range 16).map fun a => registerRead t (BitVec.ofNat 4 a)

/-- R119 (clause 2), R911, with R651 and R655: in a safe state with BUSY = 0 the bytes counted are the bytes of a message within
the limit, with the padding of that message appended if `done = 1`; then no byte is pending and at least one block is counted. -/
def Obligations.SafeBoundaryCountsMessageAndPadding : Prop :=
  ∀ s : State, safeState s = true → s.fsm = .idle →
    (s.done = false → s.completedBlocks.toNat * 64 + s.numPending.toNat ≤ 2 ^ 61 - 1) ∧
    (s.done = true → s.numPending = 0 ∧ 1 ≤ s.completedBlocks.toNat ∧
      ∃ N, N ≤ 2 ^ 61 - 1 ∧ ∀ L : BitVec 64,
        s.completedBlocks.toNat * 64 + s.numPending.toNat = N + (paddingBytes N L).length)

/-- R309 (WAIT), R115, R906: WAIT reads STATUS until BUSY = 0. In a safe state with BUSY = 0 it is over after one read, which
delivers STATUS. In a busy one it reads STATUS at each micro-step of the engine (one read a micro-step: log entry 14), as many as
the engine is busy for and at most 207, and the read after them delivers STATUS with BUSY = 0; nothing else of the engine differs
from the engine left alone. -/
def Obligations.WaitReadsStatusUntilNotBusy : Prop :=
  ∀ (s : State) (rest : List HostMove), safeState s = true → s.inputs = .waitIdle :: rest →
    ∃ n, n ≤ 207 ∧ (s.fsm = .idle ↔ n = 0) ∧
      (∀ m, m < n → busy (busySteps Config.roundsPerStep m s) = true ∧
        ∃ u : State, Host.Core.run core (m + 1) s = .next u ∧ u.inputs = s.inputs ∧ u.rdata.getLsbD 0 = true) ∧
      let t := busySteps Config.roundsPerStep n s
      t.fsm = .idle ∧ (statusWord t).getLsbD 0 = false ∧
      Host.Core.run core (n + 1) s =
        .next { t with inputs := rest, rdata := statusWord t, draws := s.draws + n + 1 }

/-- R310, R309, R656, R907: the library's `finish` at either level: from a launch state in the ACCEPT phase, FINISH, WAIT and the reads
of DIGEST0 to DIGEST7 take the host to read `i` with DIGESTi delivered, for every `i`; the digest is the chaining value after the
blocks of the pending tail and its padding. -/
def Obligations.LibraryFinishDeliversTheDigest : Prop :=
  ∀ (s : State) (rest : List HostMove) (i : Fin 8), launchState s = true → s.done = false →
    s.inputs = libraryFinish ++ rest →
    ∃ (k : Nat) (t : State), Host.Core.run core k s = .next t ∧
      t.inputs = libraryFinish.drop (3 + i.val) ++ rest ∧ t.rdata = t.digest[i] ∧ t.done = true ∧ busy t = false ∧
      t.digest = compressAll s.state (wholeBlocks
        (validBytes s ++ paddingBytes (totalBytes s) (BitVec.ofNat 64 (totalBytes s * 8))))
end

