-- ==== Sys2Proof/Laws/State.lean ====
section
/-! SUPPORT. What each update of the state leaves alone: one lemma per operation and field, so that no later proof unfolds a
record update. -/

namespace Sys2Proof.Machine

theorem appendBytes_nil (s : State) : appendBytes [] s = s := rfl

theorem appendBytes_cons (b : Byte) (rest : List Byte) (s : State) :
    appendBytes (b :: rest) s = appendBytes rest (appendByte s b) := rfl

theorem appendBytes_append (bs cs : List Byte) (s : State) :
    appendBytes (bs ++ cs) s = appendBytes cs (appendBytes bs s) := List.foldl_append

/-! #### raiseError (R805) -/

@[simp] theorem raiseError_state (e : EngineError) (s : State) : (raiseError e s).state = s.state :=
  by unfold raiseError; split <;> rfl

@[simp] theorem raiseError_completedBlocks (e : EngineError) (s : State) : (raiseError e s).completedBlocks = s.completedBlocks :=
  by unfold raiseError; split <;> rfl

@[simp] theorem raiseError_pending (e : EngineError) (s : State) : (raiseError e s).pending = s.pending :=
  by unfold raiseError; split <;> rfl

@[simp] theorem raiseError_numPending (e : EngineError) (s : State) : (raiseError e s).numPending = s.numPending :=
  by unfold raiseError; split <;> rfl

@[simp] theorem raiseError_done (e : EngineError) (s : State) : (raiseError e s).done = s.done :=
  by unfold raiseError; split <;> rfl

@[simp] theorem raiseError_digest (e : EngineError) (s : State) : (raiseError e s).digest = s.digest :=
  by unfold raiseError; split <;> rfl

@[simp] theorem raiseError_fsm (e : EngineError) (s : State) : (raiseError e s).fsm = s.fsm :=
  by unfold raiseError; split <;> rfl

@[simp] theorem raiseError_mode (e : EngineError) (s : State) : (raiseError e s).mode = s.mode :=
  by unfold raiseError; split <;> rfl

@[simp] theorem raiseError_inq (e : EngineError) (s : State) : (raiseError e s).inq = s.inq :=
  by unfold raiseError; split <;> rfl

@[simp] theorem raiseError_pad (e : EngineError) (s : State) : (raiseError e s).pad = s.pad :=
  by unfold raiseError; split <;> rfl

@[simp] theorem raiseError_L (e : EngineError) (s : State) : (raiseError e s).L = s.L :=
  by unfold raiseError; split <;> rfl

@[simp] theorem raiseError_w (e : EngineError) (s : State) : (raiseError e s).w = s.w :=
  by unfold raiseError; split <;> rfl

@[simp] theorem raiseError_working (e : EngineError) (s : State) : (raiseError e s).working = s.working :=
  by unfold raiseError; split <;> rfl

@[simp] theorem raiseError_t (e : EngineError) (s : State) : (raiseError e s).t = s.t :=
  by unfold raiseError; split <;> rfl

@[simp] theorem raiseError_inputs (e : EngineError) (s : State) : (raiseError e s).inputs = s.inputs :=
  by unfold raiseError; split <;> rfl

@[simp] theorem raiseError_level (e : EngineError) (s : State) : (raiseError e s).level = s.level :=
  by unfold raiseError; split <;> rfl

@[simp] theorem raiseError_rdata (e : EngineError) (s : State) : (raiseError e s).rdata = s.rdata :=
  by unfold raiseError; split <;> rfl

@[simp] theorem raiseError_draws (e : EngineError) (s : State) : (raiseError e s).draws = s.draws :=
  by unfold raiseError; split <;> rfl

/-! #### clearError (R607) -/

@[simp] theorem clearError_state (s : State) : (clearError s).state = s.state := rfl

@[simp] theorem clearError_completedBlocks (s : State) : (clearError s).completedBlocks = s.completedBlocks := rfl

@[simp] theorem clearError_pending (s : State) : (clearError s).pending = s.pending := rfl

@[simp] theorem clearError_numPending (s : State) : (clearError s).numPending = s.numPending := rfl

@[simp] theorem clearError_done (s : State) : (clearError s).done = s.done := rfl

@[simp] theorem clearError_digest (s : State) : (clearError s).digest = s.digest := rfl

@[simp] theorem clearError_fsm (s : State) : (clearError s).fsm = s.fsm := rfl

@[simp] theorem clearError_mode (s : State) : (clearError s).mode = s.mode := rfl

@[simp] theorem clearError_inq (s : State) : (clearError s).inq = s.inq := rfl

@[simp] theorem clearError_pad (s : State) : (clearError s).pad = s.pad := rfl

@[simp] theorem clearError_L (s : State) : (clearError s).L = s.L := rfl

@[simp] theorem clearError_w (s : State) : (clearError s).w = s.w := rfl

@[simp] theorem clearError_working (s : State) : (clearError s).working = s.working := rfl

@[simp] theorem clearError_t (s : State) : (clearError s).t = s.t := rfl

@[simp] theorem clearError_inputs (s : State) : (clearError s).inputs = s.inputs := rfl

@[simp] theorem clearError_level (s : State) : (clearError s).level = s.level := rfl

@[simp] theorem clearError_rdata (s : State) : (clearError s).rdata = s.rdata := rfl

@[simp] theorem clearError_draws (s : State) : (clearError s).draws = s.draws := rfl

/-! #### initContext (R604) -/

@[simp] theorem initContext_pending (s : State) : (initContext s).pending = s.pending := rfl

@[simp] theorem initContext_errcode (s : State) : (initContext s).errcode = s.errcode := rfl

@[simp] theorem initContext_fsm (s : State) : (initContext s).fsm = s.fsm := rfl

@[simp] theorem initContext_mode (s : State) : (initContext s).mode = s.mode := rfl

@[simp] theorem initContext_inq (s : State) : (initContext s).inq = s.inq := rfl

@[simp] theorem initContext_pad (s : State) : (initContext s).pad = s.pad := rfl

@[simp] theorem initContext_L (s : State) : (initContext s).L = s.L := rfl

@[simp] theorem initContext_w (s : State) : (initContext s).w = s.w := rfl

@[simp] theorem initContext_working (s : State) : (initContext s).working = s.working := rfl

@[simp] theorem initContext_t (s : State) : (initContext s).t = s.t := rfl

@[simp] theorem initContext_inputs (s : State) : (initContext s).inputs = s.inputs := rfl

@[simp] theorem initContext_level (s : State) : (initContext s).level = s.level := rfl

@[simp] theorem initContext_rdata (s : State) : (initContext s).rdata = s.rdata := rfl

@[simp] theorem initContext_draws (s : State) : (initContext s).draws = s.draws := rfl

/-! #### resetEngine (R900) -/

@[simp] theorem resetEngine_pending (s : State) : (resetEngine s).pending = s.pending := rfl

@[simp] theorem resetEngine_L (s : State) : (resetEngine s).L = s.L := rfl

@[simp] theorem resetEngine_w (s : State) : (resetEngine s).w = s.w := rfl

@[simp] theorem resetEngine_working (s : State) : (resetEngine s).working = s.working := rfl

@[simp] theorem resetEngine_t (s : State) : (resetEngine s).t = s.t := rfl

@[simp] theorem resetEngine_inputs (s : State) : (resetEngine s).inputs = s.inputs := rfl

@[simp] theorem resetEngine_level (s : State) : (resetEngine s).level = s.level := rfl

@[simp] theorem resetEngine_rdata (s : State) : (resetEngine s).rdata = s.rdata := rfl

@[simp] theorem resetEngine_draws (s : State) : (resetEngine s).draws = s.draws := rfl

/-! #### compressBlock (R550, R557) -/

@[simp] theorem compressBlock_pending (block : List Byte) (s : State) : (compressBlock block s).pending = s.pending :=
  rfl

@[simp] theorem compressBlock_numPending (block : List Byte) (s : State) : (compressBlock block s).numPending = s.numPending :=
  rfl

@[simp] theorem compressBlock_done (block : List Byte) (s : State) : (compressBlock block s).done = s.done := rfl

@[simp] theorem compressBlock_errcode (block : List Byte) (s : State) : (compressBlock block s).errcode = s.errcode :=
  rfl

@[simp] theorem compressBlock_digest (block : List Byte) (s : State) : (compressBlock block s).digest = s.digest := rfl

@[simp] theorem compressBlock_fsm (block : List Byte) (s : State) : (compressBlock block s).fsm = s.fsm := rfl

@[simp] theorem compressBlock_mode (block : List Byte) (s : State) : (compressBlock block s).mode = s.mode := rfl

@[simp] theorem compressBlock_inq (block : List Byte) (s : State) : (compressBlock block s).inq = s.inq := rfl

@[simp] theorem compressBlock_pad (block : List Byte) (s : State) : (compressBlock block s).pad = s.pad := rfl

@[simp] theorem compressBlock_L (block : List Byte) (s : State) : (compressBlock block s).L = s.L := rfl

@[simp] theorem compressBlock_inputs (block : List Byte) (s : State) : (compressBlock block s).inputs = s.inputs := rfl

@[simp] theorem compressBlock_level (block : List Byte) (s : State) : (compressBlock block s).level = s.level := rfl

@[simp] theorem compressBlock_rdata (block : List Byte) (s : State) : (compressBlock block s).rdata = s.rdata := rfl

@[simp] theorem compressBlock_draws (block : List Byte) (s : State) : (compressBlock block s).draws = s.draws := rfl

/-! #### storeByte (R201) -/

@[simp] theorem storeByte_state (b : Byte) (s : State) : (storeByte b s).state = s.state := rfl

@[simp] theorem storeByte_completedBlocks (b : Byte) (s : State) : (storeByte b s).completedBlocks = s.completedBlocks :=
  rfl

@[simp] theorem storeByte_numPending (b : Byte) (s : State) : (storeByte b s).numPending = s.numPending := rfl

@[simp] theorem storeByte_done (b : Byte) (s : State) : (storeByte b s).done = s.done := rfl

@[simp] theorem storeByte_errcode (b : Byte) (s : State) : (storeByte b s).errcode = s.errcode := rfl

@[simp] theorem storeByte_digest (b : Byte) (s : State) : (storeByte b s).digest = s.digest := rfl

@[simp] theorem storeByte_fsm (b : Byte) (s : State) : (storeByte b s).fsm = s.fsm := rfl

@[simp] theorem storeByte_mode (b : Byte) (s : State) : (storeByte b s).mode = s.mode := rfl

@[simp] theorem storeByte_inq (b : Byte) (s : State) : (storeByte b s).inq = s.inq := rfl

@[simp] theorem storeByte_pad (b : Byte) (s : State) : (storeByte b s).pad = s.pad := rfl

@[simp] theorem storeByte_L (b : Byte) (s : State) : (storeByte b s).L = s.L := rfl

@[simp] theorem storeByte_w (b : Byte) (s : State) : (storeByte b s).w = s.w := rfl

@[simp] theorem storeByte_working (b : Byte) (s : State) : (storeByte b s).working = s.working := rfl

@[simp] theorem storeByte_t (b : Byte) (s : State) : (storeByte b s).t = s.t := rfl

@[simp] theorem storeByte_inputs (b : Byte) (s : State) : (storeByte b s).inputs = s.inputs := rfl

@[simp] theorem storeByte_level (b : Byte) (s : State) : (storeByte b s).level = s.level := rfl

@[simp] theorem storeByte_rdata (b : Byte) (s : State) : (storeByte b s).rdata = s.rdata := rfl

@[simp] theorem storeByte_draws (b : Byte) (s : State) : (storeByte b s).draws = s.draws := rfl

/-! #### appendByte (R602) -/

@[simp] theorem appendByte_done (s : State) (b : Byte) : (appendByte s b).done = s.done :=
  by unfold appendByte; dsimp only; split <;> rfl

@[simp] theorem appendByte_errcode (s : State) (b : Byte) : (appendByte s b).errcode = s.errcode :=
  by unfold appendByte; dsimp only; split <;> rfl

@[simp] theorem appendByte_digest (s : State) (b : Byte) : (appendByte s b).digest = s.digest :=
  by unfold appendByte; dsimp only; split <;> rfl

@[simp] theorem appendByte_fsm (s : State) (b : Byte) : (appendByte s b).fsm = s.fsm :=
  by unfold appendByte; dsimp only; split <;> rfl

@[simp] theorem appendByte_mode (s : State) (b : Byte) : (appendByte s b).mode = s.mode :=
  by unfold appendByte; dsimp only; split <;> rfl

@[simp] theorem appendByte_inq (s : State) (b : Byte) : (appendByte s b).inq = s.inq :=
  by unfold appendByte; dsimp only; split <;> rfl

@[simp] theorem appendByte_pad (s : State) (b : Byte) : (appendByte s b).pad = s.pad :=
  by unfold appendByte; dsimp only; split <;> rfl

@[simp] theorem appendByte_L (s : State) (b : Byte) : (appendByte s b).L = s.L :=
  by unfold appendByte; dsimp only; split <;> rfl

@[simp] theorem appendByte_inputs (s : State) (b : Byte) : (appendByte s b).inputs = s.inputs :=
  by unfold appendByte; dsimp only; split <;> rfl

@[simp] theorem appendByte_level (s : State) (b : Byte) : (appendByte s b).level = s.level :=
  by unfold appendByte; dsimp only; split <;> rfl

@[simp] theorem appendByte_rdata (s : State) (b : Byte) : (appendByte s b).rdata = s.rdata :=
  by unfold appendByte; dsimp only; split <;> rfl

@[simp] theorem appendByte_draws (s : State) (b : Byte) : (appendByte s b).draws = s.draws :=
  by unfold appendByte; dsimp only; split <;> rfl

/-! #### appendBytes (R605) -/

@[simp] theorem appendBytes_done (bytes : List Byte) (s : State) : (appendBytes bytes s).done = s.done := by
  induction bytes generalizing s with
  | nil => rfl
  | cons b rest ih => simp [appendBytes_cons, ih]

@[simp] theorem appendBytes_errcode (bytes : List Byte) (s : State) : (appendBytes bytes s).errcode = s.errcode := by
  induction bytes generalizing s with
  | nil => rfl
  | cons b rest ih => simp [appendBytes_cons, ih]

@[simp] theorem appendBytes_digest (bytes : List Byte) (s : State) : (appendBytes bytes s).digest = s.digest := by
  induction bytes generalizing s with
  | nil => rfl
  | cons b rest ih => simp [appendBytes_cons, ih]

@[simp] theorem appendBytes_fsm (bytes : List Byte) (s : State) : (appendBytes bytes s).fsm = s.fsm := by
  induction bytes generalizing s with
  | nil => rfl
  | cons b rest ih => simp [appendBytes_cons, ih]

@[simp] theorem appendBytes_mode (bytes : List Byte) (s : State) : (appendBytes bytes s).mode = s.mode := by
  induction bytes generalizing s with
  | nil => rfl
  | cons b rest ih => simp [appendBytes_cons, ih]

@[simp] theorem appendBytes_inq (bytes : List Byte) (s : State) : (appendBytes bytes s).inq = s.inq := by
  induction bytes generalizing s with
  | nil => rfl
  | cons b rest ih => simp [appendBytes_cons, ih]

@[simp] theorem appendBytes_pad (bytes : List Byte) (s : State) : (appendBytes bytes s).pad = s.pad := by
  induction bytes generalizing s with
  | nil => rfl
  | cons b rest ih => simp [appendBytes_cons, ih]

@[simp] theorem appendBytes_L (bytes : List Byte) (s : State) : (appendBytes bytes s).L = s.L := by
  induction bytes generalizing s with
  | nil => rfl
  | cons b rest ih => simp [appendBytes_cons, ih]

@[simp] theorem appendBytes_inputs (bytes : List Byte) (s : State) : (appendBytes bytes s).inputs = s.inputs := by
  induction bytes generalizing s with
  | nil => rfl
  | cons b rest ih => simp [appendBytes_cons, ih]

@[simp] theorem appendBytes_level (bytes : List Byte) (s : State) : (appendBytes bytes s).level = s.level := by
  induction bytes generalizing s with
  | nil => rfl
  | cons b rest ih => simp [appendBytes_cons, ih]

@[simp] theorem appendBytes_rdata (bytes : List Byte) (s : State) : (appendBytes bytes s).rdata = s.rdata := by
  induction bytes generalizing s with
  | nil => rfl
  | cons b rest ih => simp [appendBytes_cons, ih]

@[simp] theorem appendBytes_draws (bytes : List Byte) (s : State) : (appendBytes bytes s).draws = s.draws := by
  induction bytes generalizing s with
  | nil => rfl
  | cons b rest ih => simp [appendBytes_cons, ih]

/-! #### captureDigest (R656) -/

@[simp] theorem captureDigest_state (s : State) : (captureDigest s).state = s.state := rfl

@[simp] theorem captureDigest_completedBlocks (s : State) : (captureDigest s).completedBlocks = s.completedBlocks := rfl

@[simp] theorem captureDigest_pending (s : State) : (captureDigest s).pending = s.pending := rfl

@[simp] theorem captureDigest_numPending (s : State) : (captureDigest s).numPending = s.numPending := rfl

@[simp] theorem captureDigest_errcode (s : State) : (captureDigest s).errcode = s.errcode := rfl

@[simp] theorem captureDigest_fsm (s : State) : (captureDigest s).fsm = s.fsm := rfl

@[simp] theorem captureDigest_mode (s : State) : (captureDigest s).mode = s.mode := rfl

@[simp] theorem captureDigest_inq (s : State) : (captureDigest s).inq = s.inq := rfl

@[simp] theorem captureDigest_pad (s : State) : (captureDigest s).pad = s.pad := rfl

@[simp] theorem captureDigest_L (s : State) : (captureDigest s).L = s.L := rfl

@[simp] theorem captureDigest_w (s : State) : (captureDigest s).w = s.w := rfl

@[simp] theorem captureDigest_working (s : State) : (captureDigest s).working = s.working := rfl

@[simp] theorem captureDigest_t (s : State) : (captureDigest s).t = s.t := rfl

@[simp] theorem captureDigest_inputs (s : State) : (captureDigest s).inputs = s.inputs := rfl

@[simp] theorem captureDigest_level (s : State) : (captureDigest s).level = s.level := rfl

@[simp] theorem captureDigest_rdata (s : State) : (captureDigest s).rdata = s.rdata := rfl

@[simp] theorem captureDigest_draws (s : State) : (captureDigest s).draws = s.draws := rfl

/-! #### pushEffect (R605) -/

@[simp] theorem pushEffect_done (bytes : List Byte) (s : State) : (pushEffect bytes s).done = s.done :=
  by simp [pushEffect]

@[simp] theorem pushEffect_errcode (bytes : List Byte) (s : State) : (pushEffect bytes s).errcode = s.errcode :=
  by simp [pushEffect]

@[simp] theorem pushEffect_digest (bytes : List Byte) (s : State) : (pushEffect bytes s).digest = s.digest :=
  by simp [pushEffect]

@[simp] theorem pushEffect_fsm (bytes : List Byte) (s : State) : (pushEffect bytes s).fsm = s.fsm :=
  by simp [pushEffect]

@[simp] theorem pushEffect_pad (bytes : List Byte) (s : State) : (pushEffect bytes s).pad = s.pad :=
  by simp [pushEffect]

@[simp] theorem pushEffect_L (bytes : List Byte) (s : State) : (pushEffect bytes s).L = s.L := by simp [pushEffect]

@[simp] theorem pushEffect_inputs (bytes : List Byte) (s : State) : (pushEffect bytes s).inputs = s.inputs :=
  by simp [pushEffect]

@[simp] theorem pushEffect_level (bytes : List Byte) (s : State) : (pushEffect bytes s).level = s.level :=
  by simp [pushEffect]

@[simp] theorem pushEffect_rdata (bytes : List Byte) (s : State) : (pushEffect bytes s).rdata = s.rdata :=
  by simp [pushEffect]

@[simp] theorem pushEffect_draws (bytes : List Byte) (s : State) : (pushEffect bytes s).draws = s.draws :=
  by simp [pushEffect]

/-! #### finalize (R606) -/

@[simp] theorem finalize_errcode (s : State) : (finalize s).errcode = s.errcode := by simp [finalize]

@[simp] theorem finalize_fsm (s : State) : (finalize s).fsm = s.fsm := by simp [finalize]

@[simp] theorem finalize_inq (s : State) : (finalize s).inq = s.inq := by simp [finalize]

@[simp] theorem finalize_inputs (s : State) : (finalize s).inputs = s.inputs := by simp [finalize]

@[simp] theorem finalize_level (s : State) : (finalize s).level = s.level := by simp [finalize]

@[simp] theorem finalize_rdata (s : State) : (finalize s).rdata = s.rdata := by simp [finalize]

@[simp] theorem finalize_draws (s : State) : (finalize s).draws = s.draws := by simp [finalize]

/-! #### writeByte (R704) -/

@[simp] theorem writeByte_state (b : Byte) (s : State) : (writeByte b s).state = s.state :=
  by unfold writeByte; dsimp only; split <;> rfl

@[simp] theorem writeByte_completedBlocks (b : Byte) (s : State) : (writeByte b s).completedBlocks = s.completedBlocks :=
  by unfold writeByte; dsimp only; split <;> rfl

@[simp] theorem writeByte_done (b : Byte) (s : State) : (writeByte b s).done = s.done :=
  by unfold writeByte; dsimp only; split <;> rfl

@[simp] theorem writeByte_errcode (b : Byte) (s : State) : (writeByte b s).errcode = s.errcode :=
  by unfold writeByte; dsimp only; split <;> rfl

@[simp] theorem writeByte_digest (b : Byte) (s : State) : (writeByte b s).digest = s.digest :=
  by unfold writeByte; dsimp only; split <;> rfl

@[simp] theorem writeByte_mode (b : Byte) (s : State) : (writeByte b s).mode = s.mode :=
  by unfold writeByte; dsimp only; split <;> rfl

@[simp] theorem writeByte_inq (b : Byte) (s : State) : (writeByte b s).inq = s.inq :=
  by unfold writeByte; dsimp only; split <;> rfl

@[simp] theorem writeByte_pad (b : Byte) (s : State) : (writeByte b s).pad = s.pad :=
  by unfold writeByte; dsimp only; split <;> rfl

@[simp] theorem writeByte_L (b : Byte) (s : State) : (writeByte b s).L = s.L :=
  by unfold writeByte; dsimp only; split <;> rfl

@[simp] theorem writeByte_w (b : Byte) (s : State) : (writeByte b s).w = s.w :=
  by unfold writeByte; dsimp only; split <;> rfl

@[simp] theorem writeByte_working (b : Byte) (s : State) : (writeByte b s).working = s.working :=
  by unfold writeByte; dsimp only; split <;> rfl

@[simp] theorem writeByte_t (b : Byte) (s : State) : (writeByte b s).t = s.t :=
  by unfold writeByte; dsimp only; split <;> rfl

@[simp] theorem writeByte_inputs (b : Byte) (s : State) : (writeByte b s).inputs = s.inputs :=
  by unfold writeByte; dsimp only; split <;> rfl

@[simp] theorem writeByte_level (b : Byte) (s : State) : (writeByte b s).level = s.level :=
  by unfold writeByte; dsimp only; split <;> rfl

@[simp] theorem writeByte_rdata (b : Byte) (s : State) : (writeByte b s).rdata = s.rdata :=
  by unfold writeByte; dsimp only; split <;> rfl

@[simp] theorem writeByte_draws (b : Byte) (s : State) : (writeByte b s).draws = s.draws :=
  by unfold writeByte; dsimp only; split <;> rfl

/-! #### appendStep (R704) -/

@[simp] theorem appendStep_state (s : State) : (appendStep s).state = s.state := by unfold appendStep; split <;> simp

@[simp] theorem appendStep_completedBlocks (s : State) : (appendStep s).completedBlocks = s.completedBlocks :=
  by unfold appendStep; split <;> simp

@[simp] theorem appendStep_done (s : State) : (appendStep s).done = s.done := by unfold appendStep; split <;> simp

@[simp] theorem appendStep_errcode (s : State) : (appendStep s).errcode = s.errcode :=
  by unfold appendStep; split <;> simp

@[simp] theorem appendStep_digest (s : State) : (appendStep s).digest = s.digest :=
  by unfold appendStep; split <;> simp

@[simp] theorem appendStep_mode (s : State) : (appendStep s).mode = s.mode := by unfold appendStep; split <;> simp

@[simp] theorem appendStep_pad (s : State) : (appendStep s).pad = s.pad := by unfold appendStep; split <;> simp

@[simp] theorem appendStep_L (s : State) : (appendStep s).L = s.L := by unfold appendStep; split <;> simp

@[simp] theorem appendStep_w (s : State) : (appendStep s).w = s.w := by unfold appendStep; split <;> simp

@[simp] theorem appendStep_working (s : State) : (appendStep s).working = s.working :=
  by unfold appendStep; split <;> simp

@[simp] theorem appendStep_t (s : State) : (appendStep s).t = s.t := by unfold appendStep; split <;> simp

@[simp] theorem appendStep_inputs (s : State) : (appendStep s).inputs = s.inputs :=
  by unfold appendStep; split <;> simp

@[simp] theorem appendStep_level (s : State) : (appendStep s).level = s.level := by unfold appendStep; split <;> simp

@[simp] theorem appendStep_rdata (s : State) : (appendStep s).rdata = s.rdata := by unfold appendStep; split <;> simp

@[simp] theorem appendStep_draws (s : State) : (appendStep s).draws = s.draws := by unfold appendStep; split <;> simp

/-! #### padStep (R705) -/

@[simp] theorem padStep_state (s : State) : (padStep s).state = s.state :=
  by unfold padStep; split <;> (try split) <;> simp

@[simp] theorem padStep_completedBlocks (s : State) : (padStep s).completedBlocks = s.completedBlocks :=
  by unfold padStep; split <;> (try split) <;> simp

@[simp] theorem padStep_done (s : State) : (padStep s).done = s.done :=
  by unfold padStep; split <;> (try split) <;> simp

@[simp] theorem padStep_errcode (s : State) : (padStep s).errcode = s.errcode :=
  by unfold padStep; split <;> (try split) <;> simp

@[simp] theorem padStep_digest (s : State) : (padStep s).digest = s.digest :=
  by unfold padStep; split <;> (try split) <;> simp

@[simp] theorem padStep_mode (s : State) : (padStep s).mode = s.mode :=
  by unfold padStep; split <;> (try split) <;> simp

@[simp] theorem padStep_inq (s : State) : (padStep s).inq = s.inq := by unfold padStep; split <;> (try split) <;> simp

@[simp] theorem padStep_L (s : State) : (padStep s).L = s.L := by unfold padStep; split <;> (try split) <;> simp

@[simp] theorem padStep_w (s : State) : (padStep s).w = s.w := by unfold padStep; split <;> (try split) <;> simp

@[simp] theorem padStep_working (s : State) : (padStep s).working = s.working :=
  by unfold padStep; split <;> (try split) <;> simp

@[simp] theorem padStep_t (s : State) : (padStep s).t = s.t := by unfold padStep; split <;> (try split) <;> simp

@[simp] theorem padStep_inputs (s : State) : (padStep s).inputs = s.inputs :=
  by unfold padStep; split <;> (try split) <;> simp

@[simp] theorem padStep_level (s : State) : (padStep s).level = s.level :=
  by unfold padStep; split <;> (try split) <;> simp

@[simp] theorem padStep_rdata (s : State) : (padStep s).rdata = s.rdata :=
  by unfold padStep; split <;> (try split) <;> simp

@[simp] theorem padStep_draws (s : State) : (padStep s).draws = s.draws :=
  by unfold padStep; split <;> (try split) <;> simp

/-! #### loadStep (R706) -/

@[simp] theorem loadStep_state (s : State) : (loadStep s).state = s.state := rfl

@[simp] theorem loadStep_completedBlocks (s : State) : (loadStep s).completedBlocks = s.completedBlocks := rfl

@[simp] theorem loadStep_pending (s : State) : (loadStep s).pending = s.pending := rfl

@[simp] theorem loadStep_numPending (s : State) : (loadStep s).numPending = s.numPending := rfl

@[simp] theorem loadStep_done (s : State) : (loadStep s).done = s.done := rfl

@[simp] theorem loadStep_errcode (s : State) : (loadStep s).errcode = s.errcode := rfl

@[simp] theorem loadStep_digest (s : State) : (loadStep s).digest = s.digest := rfl

@[simp] theorem loadStep_mode (s : State) : (loadStep s).mode = s.mode := rfl

@[simp] theorem loadStep_inq (s : State) : (loadStep s).inq = s.inq := rfl

@[simp] theorem loadStep_pad (s : State) : (loadStep s).pad = s.pad := rfl

@[simp] theorem loadStep_L (s : State) : (loadStep s).L = s.L := rfl

@[simp] theorem loadStep_inputs (s : State) : (loadStep s).inputs = s.inputs := rfl

@[simp] theorem loadStep_level (s : State) : (loadStep s).level = s.level := rfl

@[simp] theorem loadStep_rdata (s : State) : (loadStep s).rdata = s.rdata := rfl

@[simp] theorem loadStep_draws (s : State) : (loadStep s).draws = s.draws := rfl

/-! #### roundStep (R707) -/

@[simp] theorem roundStep_state (s : State) : (roundStep s).state = s.state := rfl

@[simp] theorem roundStep_completedBlocks (s : State) : (roundStep s).completedBlocks = s.completedBlocks := rfl

@[simp] theorem roundStep_pending (s : State) : (roundStep s).pending = s.pending := rfl

@[simp] theorem roundStep_numPending (s : State) : (roundStep s).numPending = s.numPending := rfl

@[simp] theorem roundStep_done (s : State) : (roundStep s).done = s.done := rfl

@[simp] theorem roundStep_errcode (s : State) : (roundStep s).errcode = s.errcode := rfl

@[simp] theorem roundStep_digest (s : State) : (roundStep s).digest = s.digest := rfl

@[simp] theorem roundStep_mode (s : State) : (roundStep s).mode = s.mode := rfl

@[simp] theorem roundStep_inq (s : State) : (roundStep s).inq = s.inq := rfl

@[simp] theorem roundStep_pad (s : State) : (roundStep s).pad = s.pad := rfl

@[simp] theorem roundStep_L (s : State) : (roundStep s).L = s.L := rfl

@[simp] theorem roundStep_inputs (s : State) : (roundStep s).inputs = s.inputs := rfl

@[simp] theorem roundStep_level (s : State) : (roundStep s).level = s.level := rfl

@[simp] theorem roundStep_rdata (s : State) : (roundStep s).rdata = s.rdata := rfl

@[simp] theorem roundStep_draws (s : State) : (roundStep s).draws = s.draws := rfl

/-! #### roundsStep (R707) -/

@[simp] theorem roundsStep_state (r : Nat) (s : State) : (roundsStep r s).state = s.state := by
  induction r generalizing s with
  | zero => rfl
  | succ r ih => unfold roundsStep; split <;> simp [ih]

@[simp] theorem roundsStep_completedBlocks (r : Nat) (s : State) : (roundsStep r s).completedBlocks = s.completedBlocks := by
  induction r generalizing s with
  | zero => rfl
  | succ r ih => unfold roundsStep; split <;> simp [ih]

@[simp] theorem roundsStep_pending (r : Nat) (s : State) : (roundsStep r s).pending = s.pending := by
  induction r generalizing s with
  | zero => rfl
  | succ r ih => unfold roundsStep; split <;> simp [ih]

@[simp] theorem roundsStep_numPending (r : Nat) (s : State) : (roundsStep r s).numPending = s.numPending := by
  induction r generalizing s with
  | zero => rfl
  | succ r ih => unfold roundsStep; split <;> simp [ih]

@[simp] theorem roundsStep_done (r : Nat) (s : State) : (roundsStep r s).done = s.done := by
  induction r generalizing s with
  | zero => rfl
  | succ r ih => unfold roundsStep; split <;> simp [ih]

@[simp] theorem roundsStep_errcode (r : Nat) (s : State) : (roundsStep r s).errcode = s.errcode := by
  induction r generalizing s with
  | zero => rfl
  | succ r ih => unfold roundsStep; split <;> simp [ih]

@[simp] theorem roundsStep_digest (r : Nat) (s : State) : (roundsStep r s).digest = s.digest := by
  induction r generalizing s with
  | zero => rfl
  | succ r ih => unfold roundsStep; split <;> simp [ih]

@[simp] theorem roundsStep_mode (r : Nat) (s : State) : (roundsStep r s).mode = s.mode := by
  induction r generalizing s with
  | zero => rfl
  | succ r ih => unfold roundsStep; split <;> simp [ih]

@[simp] theorem roundsStep_inq (r : Nat) (s : State) : (roundsStep r s).inq = s.inq := by
  induction r generalizing s with
  | zero => rfl
  | succ r ih => unfold roundsStep; split <;> simp [ih]

@[simp] theorem roundsStep_pad (r : Nat) (s : State) : (roundsStep r s).pad = s.pad := by
  induction r generalizing s with
  | zero => rfl
  | succ r ih => unfold roundsStep; split <;> simp [ih]

@[simp] theorem roundsStep_L (r : Nat) (s : State) : (roundsStep r s).L = s.L := by
  induction r generalizing s with
  | zero => rfl
  | succ r ih => unfold roundsStep; split <;> simp [ih]

@[simp] theorem roundsStep_inputs (r : Nat) (s : State) : (roundsStep r s).inputs = s.inputs := by
  induction r generalizing s with
  | zero => rfl
  | succ r ih => unfold roundsStep; split <;> simp [ih]

@[simp] theorem roundsStep_level (r : Nat) (s : State) : (roundsStep r s).level = s.level := by
  induction r generalizing s with
  | zero => rfl
  | succ r ih => unfold roundsStep; split <;> simp [ih]

@[simp] theorem roundsStep_rdata (r : Nat) (s : State) : (roundsStep r s).rdata = s.rdata := by
  induction r generalizing s with
  | zero => rfl
  | succ r ih => unfold roundsStep; split <;> simp [ih]

@[simp] theorem roundsStep_draws (r : Nat) (s : State) : (roundsStep r s).draws = s.draws := by
  induction r generalizing s with
  | zero => rfl
  | succ r ih => unfold roundsStep; split <;> simp [ih]

/-! #### feedbackStep (R708) -/

@[simp] theorem feedbackStep_pending (s : State) : (feedbackStep s).pending = s.pending := rfl

@[simp] theorem feedbackStep_done (s : State) : (feedbackStep s).done = s.done := rfl

@[simp] theorem feedbackStep_errcode (s : State) : (feedbackStep s).errcode = s.errcode := rfl

@[simp] theorem feedbackStep_digest (s : State) : (feedbackStep s).digest = s.digest := rfl

@[simp] theorem feedbackStep_mode (s : State) : (feedbackStep s).mode = s.mode := rfl

@[simp] theorem feedbackStep_inq (s : State) : (feedbackStep s).inq = s.inq := rfl

@[simp] theorem feedbackStep_pad (s : State) : (feedbackStep s).pad = s.pad := rfl

@[simp] theorem feedbackStep_L (s : State) : (feedbackStep s).L = s.L := rfl

@[simp] theorem feedbackStep_w (s : State) : (feedbackStep s).w = s.w := rfl

@[simp] theorem feedbackStep_working (s : State) : (feedbackStep s).working = s.working := rfl

@[simp] theorem feedbackStep_t (s : State) : (feedbackStep s).t = s.t := rfl

@[simp] theorem feedbackStep_inputs (s : State) : (feedbackStep s).inputs = s.inputs := rfl

@[simp] theorem feedbackStep_level (s : State) : (feedbackStep s).level = s.level := rfl

@[simp] theorem feedbackStep_rdata (s : State) : (feedbackStep s).rdata = s.rdata := rfl

@[simp] theorem feedbackStep_draws (s : State) : (feedbackStep s).draws = s.draws := rfl

/-! #### captureStep (R708) -/

@[simp] theorem captureStep_state (s : State) : (captureStep s).state = s.state := rfl

@[simp] theorem captureStep_completedBlocks (s : State) : (captureStep s).completedBlocks = s.completedBlocks := rfl

@[simp] theorem captureStep_pending (s : State) : (captureStep s).pending = s.pending := rfl

@[simp] theorem captureStep_numPending (s : State) : (captureStep s).numPending = s.numPending := rfl

@[simp] theorem captureStep_errcode (s : State) : (captureStep s).errcode = s.errcode := rfl

@[simp] theorem captureStep_inq (s : State) : (captureStep s).inq = s.inq := rfl

@[simp] theorem captureStep_pad (s : State) : (captureStep s).pad = s.pad := rfl

@[simp] theorem captureStep_L (s : State) : (captureStep s).L = s.L := rfl

@[simp] theorem captureStep_w (s : State) : (captureStep s).w = s.w := rfl

@[simp] theorem captureStep_working (s : State) : (captureStep s).working = s.working := rfl

@[simp] theorem captureStep_t (s : State) : (captureStep s).t = s.t := rfl

@[simp] theorem captureStep_inputs (s : State) : (captureStep s).inputs = s.inputs := rfl

@[simp] theorem captureStep_level (s : State) : (captureStep s).level = s.level := rfl

@[simp] theorem captureStep_rdata (s : State) : (captureStep s).rdata = s.rdata := rfl

@[simp] theorem captureStep_draws (s : State) : (captureStep s).draws = s.draws := rfl

/-! #### busyStep (R702) -/

@[simp] theorem busyStep_errcode (r : Nat) (s : State) : (busyStep r s).errcode = s.errcode :=
  by unfold busyStep; split <;> simp

@[simp] theorem busyStep_L (r : Nat) (s : State) : (busyStep r s).L = s.L := by unfold busyStep; split <;> simp

@[simp] theorem busyStep_inputs (r : Nat) (s : State) : (busyStep r s).inputs = s.inputs :=
  by unfold busyStep; split <;> simp

@[simp] theorem busyStep_level (r : Nat) (s : State) : (busyStep r s).level = s.level :=
  by unfold busyStep; split <;> simp

@[simp] theorem busyStep_rdata (r : Nat) (s : State) : (busyStep r s).rdata = s.rdata :=
  by unfold busyStep; split <;> simp

@[simp] theorem busyStep_draws (r : Nat) (s : State) : (busyStep r s).draws = s.draws :=
  by unfold busyStep; split <;> simp

/-! #### acceptCommand (R703) -/

@[simp] theorem acceptCommand_pending (i : Instr) (s : State) : (acceptCommand i s).pending = s.pending :=
  by unfold acceptCommand; split <;> (try split) <;> simp

@[simp] theorem acceptCommand_w (i : Instr) (s : State) : (acceptCommand i s).w = s.w :=
  by unfold acceptCommand; split <;> (try split) <;> simp

@[simp] theorem acceptCommand_working (i : Instr) (s : State) : (acceptCommand i s).working = s.working :=
  by unfold acceptCommand; split <;> (try split) <;> simp

@[simp] theorem acceptCommand_t (i : Instr) (s : State) : (acceptCommand i s).t = s.t :=
  by unfold acceptCommand; split <;> (try split) <;> simp

@[simp] theorem acceptCommand_inputs (i : Instr) (s : State) : (acceptCommand i s).inputs = s.inputs :=
  by unfold acceptCommand; split <;> (try split) <;> simp

@[simp] theorem acceptCommand_level (i : Instr) (s : State) : (acceptCommand i s).level = s.level :=
  by unfold acceptCommand; split <;> (try split) <;> simp

@[simp] theorem acceptCommand_rdata (i : Instr) (s : State) : (acceptCommand i s).rdata = s.rdata :=
  by unfold acceptCommand; split <;> (try split) <;> simp

@[simp] theorem acceptCommand_draws (i : Instr) (s : State) : (acceptCommand i s).draws = s.draws :=
  by unfold acceptCommand; split <;> (try split) <;> simp

/-! #### hostRead (R210) -/

@[simp] theorem hostRead_state (addr : BitVec 4) (s : State) : (hostRead addr s).state = s.state := rfl

@[simp] theorem hostRead_completedBlocks (addr : BitVec 4) (s : State) : (hostRead addr s).completedBlocks = s.completedBlocks :=
  rfl

@[simp] theorem hostRead_pending (addr : BitVec 4) (s : State) : (hostRead addr s).pending = s.pending := rfl

@[simp] theorem hostRead_numPending (addr : BitVec 4) (s : State) : (hostRead addr s).numPending = s.numPending := rfl

@[simp] theorem hostRead_done (addr : BitVec 4) (s : State) : (hostRead addr s).done = s.done := rfl

@[simp] theorem hostRead_errcode (addr : BitVec 4) (s : State) : (hostRead addr s).errcode = s.errcode := rfl

@[simp] theorem hostRead_digest (addr : BitVec 4) (s : State) : (hostRead addr s).digest = s.digest := rfl

@[simp] theorem hostRead_fsm (addr : BitVec 4) (s : State) : (hostRead addr s).fsm = s.fsm := rfl

@[simp] theorem hostRead_mode (addr : BitVec 4) (s : State) : (hostRead addr s).mode = s.mode := rfl

@[simp] theorem hostRead_inq (addr : BitVec 4) (s : State) : (hostRead addr s).inq = s.inq := rfl

@[simp] theorem hostRead_pad (addr : BitVec 4) (s : State) : (hostRead addr s).pad = s.pad := rfl

@[simp] theorem hostRead_L (addr : BitVec 4) (s : State) : (hostRead addr s).L = s.L := rfl

@[simp] theorem hostRead_w (addr : BitVec 4) (s : State) : (hostRead addr s).w = s.w := rfl

@[simp] theorem hostRead_working (addr : BitVec 4) (s : State) : (hostRead addr s).working = s.working := rfl

@[simp] theorem hostRead_t (addr : BitVec 4) (s : State) : (hostRead addr s).t = s.t := rfl

@[simp] theorem hostRead_inputs (addr : BitVec 4) (s : State) : (hostRead addr s).inputs = s.inputs := rfl

@[simp] theorem hostRead_level (addr : BitVec 4) (s : State) : (hostRead addr s).level = s.level := rfl

/-! #### presentNext (R600) -/

@[simp] theorem presentNext_state (cw : CommandWord) (s : State) : (presentNext cw s).state = s.state := rfl

@[simp] theorem presentNext_completedBlocks (cw : CommandWord) (s : State) : (presentNext cw s).completedBlocks = s.completedBlocks :=
  rfl

@[simp] theorem presentNext_pending (cw : CommandWord) (s : State) : (presentNext cw s).pending = s.pending := rfl

@[simp] theorem presentNext_numPending (cw : CommandWord) (s : State) : (presentNext cw s).numPending = s.numPending :=
  rfl

@[simp] theorem presentNext_done (cw : CommandWord) (s : State) : (presentNext cw s).done = s.done := rfl

@[simp] theorem presentNext_errcode (cw : CommandWord) (s : State) : (presentNext cw s).errcode = s.errcode := rfl

@[simp] theorem presentNext_digest (cw : CommandWord) (s : State) : (presentNext cw s).digest = s.digest := rfl

@[simp] theorem presentNext_mode (cw : CommandWord) (s : State) : (presentNext cw s).mode = s.mode := rfl

@[simp] theorem presentNext_inq (cw : CommandWord) (s : State) : (presentNext cw s).inq = s.inq := rfl

@[simp] theorem presentNext_pad (cw : CommandWord) (s : State) : (presentNext cw s).pad = s.pad := rfl

@[simp] theorem presentNext_L (cw : CommandWord) (s : State) : (presentNext cw s).L = s.L := rfl

@[simp] theorem presentNext_w (cw : CommandWord) (s : State) : (presentNext cw s).w = s.w := rfl

@[simp] theorem presentNext_working (cw : CommandWord) (s : State) : (presentNext cw s).working = s.working := rfl

@[simp] theorem presentNext_t (cw : CommandWord) (s : State) : (presentNext cw s).t = s.t := rfl

@[simp] theorem presentNext_rdata (cw : CommandWord) (s : State) : (presentNext cw s).rdata = s.rdata := rfl

@[simp] theorem presentNext_draws (cw : CommandWord) (s : State) : (presentNext cw s).draws = s.draws := rfl

/-! ### What the simple updates write -/

@[simp] theorem clearError_errcode (s : State) : (clearError s).errcode = 0 := rfl
@[simp] theorem initContext_state (s : State) : (initContext s).state = romIV := rfl
@[simp] theorem initContext_completedBlocks (s : State) : (initContext s).completedBlocks = 0 := rfl
@[simp] theorem initContext_numPending (s : State) : (initContext s).numPending = 0 := rfl
@[simp] theorem initContext_done (s : State) : (initContext s).done = false := rfl
@[simp] theorem initContext_digest (s : State) : (initContext s).digest = Vector.replicate 8 0 := rfl
@[simp] theorem compressBlock_state (block : List Byte) (s : State) :
    (compressBlock block s).state = compressValue s.state block := rfl
@[simp] theorem compressBlock_completedBlocks (block : List Byte) (s : State) :
    (compressBlock block s).completedBlocks = s.completedBlocks + 1 := rfl
@[simp] theorem storeByte_pending (b : Byte) (s : State) :
    (storeByte b s).pending = memWrite s.pending s.numPending.toNat b := rfl
@[simp] theorem captureDigest_digest (s : State) : (captureDigest s).digest = s.state := rfl
@[simp] theorem captureDigest_done (s : State) : (captureDigest s).done = true := rfl
@[simp] theorem finalize_done (s : State) : (finalize s).done = true := rfl
@[simp] theorem finalize_L (s : State) : (finalize s).L = messageBits s := rfl
@[simp] theorem finalize_mode (s : State) : (finalize s).mode = .none := rfl
@[simp] theorem finalize_pad (s : State) : (finalize s).pad = .paddone := rfl
theorem finalize_digest (s : State) : (finalize s).digest = (finalize s).state := rfl
@[simp] theorem captureStep_done (s : State) : (captureStep s).done = true := rfl
@[simp] theorem captureStep_digest (s : State) : (captureStep s).digest = s.state := rfl
@[simp] theorem captureStep_fsm (s : State) : (captureStep s).fsm = .idle := rfl
@[simp] theorem feedbackStep_numPending (s : State) : (feedbackStep s).numPending = 0 := rfl
@[simp] theorem feedbackStep_completedBlocks (s : State) :
    (feedbackStep s).completedBlocks = s.completedBlocks + 1 := rfl
@[simp] theorem loadStep_fsm (s : State) : (loadStep s).fsm = .round := rfl
@[simp] theorem hostRead_rdata (addr : BitVec 4) (s : State) :
    (hostRead addr s).rdata = readPort s.draws s addr := rfl
@[simp] theorem hostRead_draws (addr : BitVec 4) (s : State) : (hostRead addr s).draws = s.draws + 1 := rfl
@[simp] theorem resetEngine_done (s : State) : (resetEngine s).done = false := rfl
@[simp] theorem resetEngine_errcode (s : State) : (resetEngine s).errcode = 0 := rfl
@[simp] theorem resetEngine_fsm (s : State) : (resetEngine s).fsm = .idle := rfl
@[simp] theorem writeByte_pending (b : Byte) (s : State) :
    (writeByte b s).pending = memWrite s.pending s.numPending.toNat b := by
  unfold writeByte; dsimp only; split <;> rfl
@[simp] theorem appendByte_pending (s : State) (b : Byte) :
    (appendByte s b).pending = memWrite s.pending s.numPending.toNat b := by
  unfold appendByte; dsimp only; split <;> rfl
@[simp] theorem presentNext_inputs (cw : CommandWord) (s : State) :
    (presentNext cw s).inputs = .present cw :: s.inputs := rfl
@[simp] theorem presentNext_fsm (cw : CommandWord) (s : State) : (presentNext cw s).fsm = .idle := rfl
@[simp] theorem presentNext_level (cw : CommandWord) (s : State) : (presentNext cw s).level = .transaction := rfl

end Sys2Proof.Machine
end

