-- ==== Sys2Proof/Laws/Memory.lean ====
section
/-! SUPPORT. The pending buffer: read after write, and the canonical form is kept by every operation. -/

namespace Sys2Proof.Machine

@[simp] theorem memLookup_memWrite_same (m : Memory) (i : Nat) (b : Byte) :
    memLookup (memWrite m i b) i = some b := by
  induction m with
  | nil => simp [memWrite, memLookup]
  | cons cell m ih =>
    obtain ⟨j, c⟩ := cell
    unfold memWrite
    split
    · simp [memLookup]
    · split
      · simp [memLookup]
      · rename_i h; simp [memLookup, h, ih]

theorem memLookup_memWrite_other (m : Memory) {i k : Nat} (b : Byte) (h : k ≠ i) :
    memLookup (memWrite m i b) k = memLookup m k := by
  induction m with
  | nil => simp [memWrite, memLookup, h]
  | cons cell m ih =>
    obtain ⟨j, c⟩ := cell
    unfold memWrite
    split
    · simp [memLookup, h]
    · split
      · rename_i hij; subst hij; simp [memLookup, h]
      · simp [memLookup, ih]

@[simp] theorem pendingByte_memWrite_same (m : Memory) (i : Nat) (b : Byte) :
    pendingByte (memWrite m i b) i = b := by
  simp [pendingByte]

theorem pendingByte_memWrite_other (m : Memory) {i k : Nat} (b : Byte) (h : k ≠ i) :
    pendingByte (memWrite m i b) k = pendingByte m k := by
  simp [pendingByte, memLookup_memWrite_other m b h]

/-- One address in front of a canonical list: it lies below every address of the list. -/
theorem sorted_cons_iff (i : Nat) (b : Byte) (m : Memory) :
    Memory.sorted ((i, b) :: m) = true ↔ (∀ cell ∈ m, i < cell.1) ∧ Memory.sorted m = true := by
  induction m generalizing i b with
  | nil => simp [Memory.sorted]
  | cons cell m ih =>
    obtain ⟨j, c⟩ := cell
    have hj := ih j c
    simp only [Memory.sorted, Bool.and_eq_true, decide_eq_true_eq, List.mem_cons, forall_eq_or_imp]
    constructor
    · rintro ⟨hij, hs⟩
      exact ⟨⟨hij, fun x hx => lt_trans hij ((hj.1 hs).1 x hx)⟩, hs⟩
    · rintro ⟨⟨hij, -⟩, hs⟩
      exact ⟨hij, hs⟩

theorem mem_memWrite (m : Memory) (i : Nat) (b : Byte) (cell : Host.Cell) (h : cell ∈ memWrite m i b) :
    cell = (i, b) ∨ cell ∈ m := by
  induction m with
  | nil => simpa [memWrite] using h
  | cons x m ih =>
    obtain ⟨j, c⟩ := x
    unfold memWrite at h
    split at h
    · simpa using h
    · split at h
      · rcases List.mem_cons.1 h with h | h
        · exact .inl h
        · exact .inr (List.mem_cons_of_mem _ h)
      · rcases List.mem_cons.1 h with h | h
        · exact .inr (h ▸ List.mem_cons_self)
        · exact (ih h).imp id (List.mem_cons_of_mem _)

theorem memWrite_sorted (m : Memory) (i : Nat) (b : Byte) (h : Memory.sorted m = true) :
    Memory.sorted (memWrite m i b) = true := by
  induction m with
  | nil => rfl
  | cons x m ih =>
    obtain ⟨j, c⟩ := x
    obtain ⟨hlt, hs⟩ := (sorted_cons_iff j c m).1 h
    unfold memWrite
    split
    · rename_i hij
      refine (sorted_cons_iff i b _).2 ⟨fun cell hc => ?_, h⟩
      rcases List.mem_cons.1 hc with rfl | hc
      · exact hij
      · exact lt_trans hij (hlt cell hc)
    · split
      · rename_i hij; subst hij
        exact (sorted_cons_iff i b m).2 ⟨hlt, hs⟩
      · refine (sorted_cons_iff j c _).2 ⟨fun cell hc => ?_, ih hs⟩
        rcases mem_memWrite m i b cell hc with rfl | hc
        · show j < i; omega
        · exact hlt cell hc

/-- R201: a write at an address of the buffer keeps its form. -/
theorem memWrite_wf (m : Memory) {i : Nat} (b : Byte) (hi : i < 64) (h : Memory.wf m = true) :
    Memory.wf (memWrite m i b) = true := by
  simp only [Memory.wf, Bool.and_eq_true, List.all_eq_true, decide_eq_true_eq] at h ⊢
  refine ⟨memWrite_sorted m i b h.1, fun cell hc => ?_⟩
  rcases mem_memWrite m i b cell hc with rfl | hc
  · exact hi
  · exact h.2 cell hc

theorem storeByte_wf (b : Byte) (s : State) (h : Memory.wf s.pending = true) :
    Memory.wf (storeByte b s).pending = true :=
  memWrite_wf _ _ s.numPending.isLt h

theorem appendByte_wf (s : State) (b : Byte) (h : Memory.wf s.pending = true) :
    Memory.wf (appendByte s b).pending = true := by
  rw [appendByte_pending]
  exact memWrite_wf _ _ s.numPending.isLt h

theorem appendBytes_wf (bytes : List Byte) (s : State) (h : Memory.wf s.pending = true) :
    Memory.wf (appendBytes bytes s).pending = true := by
  induction bytes generalizing s with
  | nil => exact h
  | cons b rest ih => exact ih _ (appendByte_wf s b h)

theorem writeByte_wf (b : Byte) (s : State) (h : Memory.wf s.pending = true) :
    Memory.wf (writeByte b s).pending = true := by
  rw [writeByte_pending]
  exact memWrite_wf _ _ s.numPending.isLt h

theorem fillPending_wf (bytes : List Byte) (i : Nat) (m : Memory) (hi : i + bytes.length ≤ 64)
    (h : Memory.wf m = true) : Memory.wf (fillPending bytes i m) = true := by
  induction bytes generalizing i m with
  | nil => exact h
  | cons b rest ih =>
    simp only [List.length_cons] at hi
    exact ih (i + 1) _ (by omega) (memWrite_wf m b (by omega) h)

@[simp] theorem memRead_length (m : Memory) (i n : Nat) : (memRead m i n).length = n := by simp [memRead]

theorem reset_pending_wf : Memory.wf State.reset.pending = true := rfl

end Sys2Proof.Machine
end

