-- ==== Sys2Proof/Laws/Ops.lean ====
section
/-! SUPPORT. What each shared operation can do, said once. -/

namespace Sys2Proof.Machine

/-- R804: recording an error changes `errcode` alone, and only if it was 0. -/
theorem raiseError_eq (e : EngineError) (s : State) :
    raiseError e s = { s with errcode := if s.errcode = 0 then errorCode e else s.errcode } := by
  unfold raiseError
  split <;> rfl

theorem errorCode_ne_zero (e : EngineError) : errorCode e ≠ 0 := by cases e <;> decide

/-- R601: what the checks of PUSH answer. -/
theorem checkPush_cases (n : Nat) (s : State) :
    (s.done = true ∧ checkPush n s = some .sequence) ∨
    (s.done = false ∧ Config.maxMessageBytes < totalBytes s + n ∧ checkPush n s = some .length) ∨
    (s.done = false ∧ totalBytes s + n ≤ Config.maxMessageBytes ∧ checkPush n s = none) := by
  unfold checkPush
  cases s.done
  · by_cases h : Config.maxMessageBytes < totalBytes s + n
    · exact .inr (.inl ⟨rfl, h, by simp [h]⟩)
    · exact .inr (.inr ⟨rfl, by omega, by simp [h]⟩)
  · exact .inl ⟨rfl, rfl⟩

/-- R601: what the check of FINISH answers. -/
theorem checkFinish_cases (s : State) :
    (s.done = true ∧ checkFinish s = some .sequence) ∨ (s.done = false ∧ checkFinish s = none) := by
  unfold checkFinish
  cases s.done
  · exact .inr ⟨rfl, rfl⟩
  · exact .inl ⟨rfl, rfl⟩

/-- R602: AppendByte either leaves the block unfinished or compresses it. -/
theorem appendByte_cases (s : State) (b : Byte) :
    (s.numPending ≠ 63 ∧ appendByte s b = { storeByte b s with numPending := s.numPending + 1 }) ∨
    (s.numPending = 63 ∧
      appendByte s b =
        { compressBlock (memRead (memWrite s.pending 63 b) 0 64) (storeByte b s) with numPending := 0 }) := by
  by_cases h : s.numPending = 63
  · refine .inr ⟨h, ?_⟩
    simp only [appendByte, h, if_true, storeByte]
    rfl
  · exact .inl ⟨h, by simp only [appendByte, h, if_false]⟩

theorem numPending_succ {s : State} (h : s.numPending ≠ 63) :
    (s.numPending + 1).toNat = s.numPending.toNat + 1 := by
  have h1 : s.numPending.toNat ≠ 63 := fun h2 => h (BitVec.eq_of_toNat_eq h2)
  have h2 := s.numPending.isLt
  have h3 : (1 : BitVec 6).toNat = 1 := rfl
  rw [BitVec.toNat_add, h3]
  omega

/-- R104: AppendByte advances `num_pending` by one, modulo 64. -/
theorem appendByte_numPending (s : State) (b : Byte) :
    (appendByte s b).numPending.toNat = (s.numPending.toNat + 1) % 64 := by
  rcases appendByte_cases s b with ⟨h, e⟩ | ⟨h, e⟩
  · have h2 := (s.numPending + 1).isLt
    rw [e]
    show (s.numPending + 1).toNat = _
    rw [numPending_succ h] at h2 ⊢
    omega
  · rw [e, h]; rfl

/-- R102, R104: one byte more, as long as the block counter does not wrap. -/
theorem appendByte_totalBytes (s : State) (b : Byte) (h : s.completedBlocks.toNat + 1 < 2 ^ 64) :
    totalBytes (appendByte s b) = totalBytes s + 1 := by
  rcases appendByte_cases s b with ⟨hn, e⟩ | ⟨hn, e⟩
  · rw [e]
    show s.completedBlocks.toNat * 64 + (s.numPending + 1).toNat = _
    rw [numPending_succ hn]
    rfl
  · rw [e]
    show (s.completedBlocks + 1).toNat * 64 + (0 : BitVec 6).toNat = _
    have h3 : (s.completedBlocks + 1).toNat = s.completedBlocks.toNat + 1 := by
      have h4 : (1 : BitVec 64).toNat = 1 := rfl
      rw [BitVec.toNat_add, h4]
      omega
    have h5 : (63 : BitVec 6).toNat = 63 := rfl
    have h6 : (0 : BitVec 6).toNat = 0 := rfl
    rw [totalBytes, hn, h3, h5, h6]
    omega

/-- R705: WriteByte either counts the byte or sets LOAD. -/
theorem writeByte_cases (s : State) (b : Byte) :
    (s.numPending ≠ 63 ∧ writeByte b s = { storeByte b s with numPending := s.numPending + 1 }) ∨
    (s.numPending = 63 ∧ writeByte b s = { storeByte b s with fsm := .load }) := by
  by_cases h : s.numPending = 63
  · exact .inr ⟨h, by simp only [writeByte, h, if_true]⟩
  · exact .inl ⟨h, by simp only [writeByte, h, if_false]⟩

theorem zeroCount_lt (N : Nat) : zeroCount N < 64 := Nat.mod_lt _ (by decide)

/-- R651: how many bytes of padding there are. -/
@[simp] theorem paddingBytes_length (N : Nat) (L : BitVec 64) : (paddingBytes N L).length = 9 + zeroCount N := by
  simp only [paddingBytes, bytes64, List.length_append, List.length_replicate, List.length_cons, List.length_nil]
  omega

theorem roundsStep_of_ne {s : State} (r : Nat) (h : s.fsm ≠ .round) : roundsStep r s = s := by
  cases r with
  | zero => rfl
  | succ r => simp [roundsStep, h]

theorem busyStep_idle {s : State} (r : Nat) (h : s.fsm = .idle) : busyStep r s = s := by
  simp [busyStep, h]

theorem busySteps_add (r m n : Nat) (s : State) : busySteps r (m + n) s = busySteps r n (busySteps r m s) := by
  induction m generalizing s with
  | zero => simp [busySteps]
  | succ m ih => rw [Nat.succ_add]; exact ih (busyStep r s)

end Sys2Proof.Machine
end

