-- ==== Sys2Proof/Laws/Exec.lean ====
section
/-! SUPPORT. What each command can do, said once (R601 to R607), and what a step can do (R702). -/

namespace Sys2Proof.Machine

theorem exec_nop (s : State) : exec .nop s = .next s := rfl

theorem exec_init (s : State) : exec .init s = .next (initContext s) := rfl

theorem exec_clrerr (s : State) : exec .clrerr s = .next (clearError s) := rfl

/-- R605: a PUSH raises the error its check names, or appends its bytes. -/
theorem exec_push (bytes : List Byte) (s : State) :
    exec (.push bytes) s =
      .next (match checkPush bytes.length s with
        | some e => raiseError e s
        | none => pushEffect bytes s) := by
  show execPush bytes s = _
  unfold execPush
  cases checkPush bytes.length s <;> rfl

/-- R606: FINISH raises SEQUENCE or finalizes. -/
theorem exec_finish (s : State) :
    exec .finish s =
      .next (match checkFinish s with
        | some e => raiseError e s
        | none => finalize s) := by
  show execFinish s = _
  unfold execFinish
  cases checkFinish s <;> rfl

/-- No command stops the machine. -/
theorem exec_next (i : Instr) (s : State) : ∃ t, exec i s = .next t := by
  cases i with
  | nop => exact ⟨_, rfl⟩
  | init => exact ⟨_, rfl⟩
  | push bytes => exact ⟨_, exec_push bytes s⟩
  | finish => exact ⟨_, exec_finish s⟩
  | clrerr => exact ⟨_, rfl⟩

theorem acceptWord_next (cw : CommandWord) (s : State) : ∃ t, acceptWord cw s = .next t := by
  unfold acceptWord
  split
  · exact ⟨_, rfl⟩
  · split
    · exact exec_next _ s
    · exact ⟨_, rfl⟩

theorem unlessStopped_of_none {s : State} (o : Host.Outcome State Fault Refusal) (h : stopReason s = none) :
    unlessStopped s o = o := by simp [unlessStopped, h]

/-- Whether the machine stops depends on the engine alone, not on what the host does or has read. -/
@[simp] theorem stopReason_inputs (s : State) (moves : List HostMove) :
    stopReason { s with inputs := moves } = stopReason s := rfl

@[simp] theorem stopReason_hostRead (addr : BitVec 4) (s : State) : stopReason (hostRead addr s) = stopReason s := rfl

/-- R210: what the read port shows depends on the engine and on the number of the read alone. -/
@[simp] theorem readPort_inputs (draw : Nat) (s : State) (moves : List HostMove) (addr : BitVec 4) :
    readPort draw { s with inputs := moves } addr = readPort draw s addr := rfl

@[simp] theorem readPort_hostRead (draw : Nat) (addr addr' : BitVec 4) (s : State) :
    readPort draw (hostRead addr' s) addr = readPort draw s addr := rfl

/-- The engine's micro-step neither reads nor writes the host's side of the state. -/
theorem busyStep_hostSide (r : Nat) (s : State) (moves : List HostMove) (v : Word) (n : Nat) :
    busyStep r { s with inputs := moves, rdata := v, draws := n } =
      { busyStep r s with inputs := moves, rdata := v, draws := n } := by
  have rounds : ∀ (r : Nat) (s : State), roundsStep r { s with inputs := moves, rdata := v, draws := n } =
      { roundsStep r s with inputs := moves, rdata := v, draws := n } := by
    intro r
    induction r with
    | zero => exact fun _ => rfl
    | succ r ih =>
      intro s
      simp only [roundsStep]
      split
      · exact ih (roundStep s)
      · rfl
  rcases s with ⟨st, cb, pe, np, dn, ec, dg, fsm, md, iq, pd, L, w, wk, tt, ins, lv, rv, dr⟩
  cases fsm with
  | round => exact rounds r _
  | idle => rfl
  | append =>
    cases iq with
    | nil => rfl
    | cons b bs => simp only [busyStep, appendStep, writeByte, storeByte]; split <;> rfl
  | pad =>
    cases pd with
    | none => rfl
    | pad80 => simp only [busyStep, padStep, writeByte, storeByte]; split <;> rfl
    | padz => simp only [busyStep, padStep, writeByte, storeByte]; split <;> (try split) <;> rfl
    | padlen k => simp only [busyStep, padStep, writeByte, storeByte]; split <;> rfl
    | paddone => simp only [busyStep, padStep]; split <;> rfl
  | load => rfl
  | feedback => cases md <;> rfl
  | capture => rfl

/-- R115: address 0 is STATUS. -/
@[simp] theorem registerRead_status (s : State) : registerRead s 0 = statusWord s := rfl

/-- R115: bit 0 of STATUS is BUSY. -/
@[simp] theorem statusWord_busy (s : State) : (statusWord s).getLsbD 0 = busy s := by
  cases h : busy s <;> simp only [statusWord, h, BitVec.getLsbD_append] <;> rfl

/-- R115, R906: bit 0 of STATUS is BUSY at every read, a read while BUSY = 1 included. -/
@[simp] theorem readPort_status_busy (draw : Nat) (s : State) : (readPort draw s 0).getLsbD 0 = busy s := by
  cases h : busy s
  · simpa only [readPort, h, Bool.false_eq_true, if_false, registerRead_status] using (statusWord_busy s).trans h
  · simp [readPort, h, busyRegisterRead]

/-- R309: a WAIT that finds BUSY = 1 leaves the engine where its own micro-step leaves it, and the move ahead. -/
theorem pollStatus_of_busy {s : State} (rest : List HostMove) (h : busy s = true) :
    pollStatus rest s = { engineStep s with rdata := readPort s.draws s 0, draws := s.draws + 1 } := by
  have bit : (hostRead 0 s).rdata.getLsbD 0 = true := (readPort_status_busy s.draws s).trans h
  simp only [pollStatus, bit, if_true]
  exact (busyStep_hostSide Config.roundsPerStep s s.inputs (readPort s.draws s 0) (s.draws + 1)).trans (by simp [engineStep])

/-- R309: a WAIT that finds BUSY = 0 is over, with STATUS delivered. -/
theorem pollStatus_of_idle {s : State} (rest : List HostMove) (h : busy s = false) :
    pollStatus rest s = { s with inputs := rest, rdata := statusWord s, draws := s.draws + 1 } := by
  have bit : (hostRead 0 s).rdata.getLsbD 0 = false := (readPort_status_busy s.draws s).trans h
  simp only [pollStatus, bit, Bool.false_eq_true, if_false]
  simp only [hostRead, readPort, h, Bool.false_eq_true, if_false, registerRead_status]

/-- A step of a WAIT in a busy engine (R309). -/
theorem step_waitIdle_of_busy {s : State} {rest : List HostMove} (hi : s.inputs = .waitIdle :: rest)
    (hs : stopReason s = none) (hb : busy s = true) :
    step s = .next { engineStep s with rdata := readPort s.draws s 0, draws := s.draws + 1 } := by
  simp only [step, hostStep, hi, unlessStopped, hs, pollStatus_of_busy rest hb]

/-- The step that ends a WAIT (R309). -/
theorem step_waitIdle_of_idle {s : State} {rest : List HostMove} (hi : s.inputs = .waitIdle :: rest)
    (hs : stopReason s = none) (hb : busy s = false) :
    step s = .next { s with inputs := rest, rdata := statusWord s, draws := s.draws + 1 } := by
  simp only [step, hostStep, hi, unlessStopped, hs, pollStatus_of_idle rest hb]

/-- R702: a step that gives a next state resets, accepts a word, reads the port (once, or in a WAIT), or lets the engine take
its micro-step. -/
theorem step_cases {s t : State} (h : step s = .next t) :
    (∃ rest, s.inputs = .reset :: rest ∧ t = resetEngine { s with inputs := rest }) ∨
    (stopReason s = none ∧
      ((∃ cw rest, s.inputs = .present cw :: rest ∧ busy s = true ∧ t = engineStep s) ∨
       (∃ cw rest, s.inputs = .present cw :: rest ∧ busy s = false ∧
          acceptWord cw { s with inputs := rest } = .next t) ∨
       (∃ addr rest, s.inputs = .read addr :: rest ∧ t = hostRead addr { s with inputs := rest }) ∨
       (∃ rest, s.inputs = .wait :: rest ∧ t = engineStep { s with inputs := rest }) ∨
       (∃ rest, s.inputs = .waitIdle :: rest ∧ t = pollStatus rest s) ∨
       (s.inputs = [] ∧ t = engineStep s))) := by
  unfold step hostStep at h
  have go : ∀ {o}, unlessStopped s o = .next t → stopReason s = none ∧ o = .next t := by
    intro o ho
    unfold unlessStopped at ho
    split at ho
    · cases ho
    · exact ⟨‹_›, ho⟩
  split at h
  · rename_i rest hi
    exact .inl ⟨rest, hi, (Host.Outcome.next.inj h).symm⟩
  · rename_i cw rest hi
    obtain ⟨hs, ho⟩ := go h
    refine .inr ⟨hs, ?_⟩
    split at ho
    · exact .inl ⟨cw, rest, hi, ‹_›, (Host.Outcome.next.inj ho).symm⟩
    · rename_i hb
      exact .inr (.inl ⟨cw, rest, hi, by simpa using hb, ho⟩)
  · rename_i addr rest hi
    obtain ⟨hs, ho⟩ := go h
    exact .inr ⟨hs, .inr (.inr (.inl ⟨addr, rest, hi, (Host.Outcome.next.inj ho).symm⟩))⟩
  · rename_i rest hi
    obtain ⟨hs, ho⟩ := go h
    exact .inr ⟨hs, .inr (.inr (.inr (.inl ⟨rest, hi, (Host.Outcome.next.inj ho).symm⟩)))⟩
  · rename_i rest hi
    obtain ⟨hs, ho⟩ := go h
    exact .inr ⟨hs, .inr (.inr (.inr (.inr (.inl ⟨rest, hi, (Host.Outcome.next.inj ho).symm⟩))))⟩
  · rename_i hi
    obtain ⟨hs, ho⟩ := go h
    exact .inr ⟨hs, .inr (.inr (.inr (.inr (.inr ⟨hi, (Host.Outcome.next.inj ho).symm⟩))))⟩

end Sys2Proof.Machine
end

