-- ==== Sys2Proof/Laws/PerInstr.lean ====
section
/-! SUPPORT. One lemma per command about its encoding: OP is the command's opcode and RSVD is 0 (R301, R308). -/

namespace Sys2Proof.Laws.EncodeFields

/-- The encoder writes the command's OP value, and 0 in the reserved field. -/
def Statement (i : Instr) : Prop := opField (encode i) = opcodeOf i ∧ rsvdField (encode i) = 0

theorem nop : Statement .nop := ⟨rfl, rfl⟩

theorem init : Statement .init := ⟨rfl, rfl⟩

theorem push (bytes : List Byte) : Statement (.push bytes) := by
  constructor
  · simp only [opField, encode, assembleWord, opcodeOf]
    ext i hi
    simp only [BitVec.getElem_extractLsb', BitVec.getLsbD_or, BitVec.getLsbD_shiftLeft, BitVec.getLsbD_setWidth]
    interval_cases i <;> simp
  · simp only [rsvdField, encode, assembleWord]
    ext i hi
    simp only [BitVec.getElem_extractLsb', BitVec.getLsbD_or, BitVec.getLsbD_shiftLeft, BitVec.getLsbD_setWidth]
    interval_cases i <;> simp

theorem finish : Statement .finish := ⟨rfl, rfl⟩

theorem clrerr : Statement .clrerr := ⟨rfl, rfl⟩

end Sys2Proof.Laws.EncodeFields
end

