-- ==== Sys2Proof/Laws/Run.lean ====
section
/-! SUPPORT. Running the machine for a number of steps (`Host.Core.run`), said once, so that no proof unfolds it. -/

namespace Sys2Proof.Machine

/-- For any machine: a run of one step more takes that step, which did not stop. -/
theorem run_succ_cases (M : Host.Core) (n : Nat) {s u : M.State} (h : M.run (n + 1) s = .next u) :
    ∃ t, M.step s = .next t ∧ M.run n t = .next u := by
  change (match M.step s with
    | .next s' => M.run n s'
    | .fault r => .fault r
    | .refused r => .refused r) = _ at h
  split at h
  · exact ⟨_, ‹_›, h⟩
  · cases h
  · cases h

/-- For any machine: one more step in front. -/
theorem run_succ_of_step (M : Host.Core) (n : Nat) {s t : M.State} (h : M.step s = .next t) :
    M.run (n + 1) s = M.run n t := by
  show (match M.step s with
    | .next s' => M.run n s'
    | .fault r => .fault r
    | .refused r => .refused r) = _
  rw [h]

/-- For any machine: a run of `m` steps that reaches a state goes on from there. -/
theorem run_add_of_run (M : Host.Core) (m n : Nat) {s t : M.State} (h : M.run m s = .next t) :
    M.run (m + n) s = M.run n t := by
  induction m generalizing s with
  | zero =>
    have e : s = t := Host.Outcome.next.inj h
    rw [e, Nat.zero_add]
  | succ m ih =>
    obtain ⟨u, hu, hr⟩ := run_succ_cases M m h
    rw [Nat.succ_add]
    exact (run_succ_of_step M (m + n) hu).trans (ih hr)

theorem run_zero (s : State) : Host.Core.run core 0 s = .next s := rfl

/-- One more step of this machine in front. -/
theorem run_succ (n : Nat) {s t : State} (h : step s = .next t) :
    Host.Core.run core (n + 1) s = Host.Core.run core n t := run_succ_of_step core n h

/-- A run of this machine that reaches a state goes on from there. -/
theorem run_add (m n : Nat) {s t : State} (h : Host.Core.run core m s = .next t) :
    Host.Core.run core (m + n) s = Host.Core.run core n t := run_add_of_run core m n h

end Sys2Proof.Machine
end

