-- ==== Sys2Proof/Laws/Safety.lean ====
section
/-! SUPPORT. What the safe states say, as propositions (R119, R911), so that no proof unfolds the test. -/

namespace Sys2Proof.Machine

/-- R119 (clause 2) once the padding has been appended. -/
theorem paddedTotal_iff (s : State) :
    paddedTotal s = true ↔
      s.numPending = 0 ∧ 1 ≤ s.completedBlocks.toNat ∧ totalBytes s ≤ Config.maxMessageBytes + 72 := by
  simp only [paddedTotal, Bool.and_eq_true, decide_eq_true_eq, and_assoc]

/-- A safe state at a command boundary. -/
theorem safeState_idle_iff {s : State} (h : s.fsm = .idle) :
    safeState s = true ↔
      Memory.wf s.pending = true ∧
        (if s.done = true then paddedTotal s = true else totalBytes s ≤ Config.maxMessageBytes) := by
  cases hd : s.done <;>
    simp only [safeState, h, hd, Bool.and_eq_true, decide_eq_true_eq, if_true, if_false, Bool.false_eq_true]

/-- A safe state before the digest capture. -/
theorem safeState_capture_iff {s : State} (h : s.fsm = .capture) :
    safeState s = true ↔
      Memory.wf s.pending = true ∧ s.done = false ∧ s.mode = .finishing ∧ paddedTotal s = true := by
  simp only [safeState, h, Bool.and_eq_true, decide_eq_true_eq, Bool.not_eq_true', and_assoc]

/-- R911: a launch state is a safe state at a command boundary. -/
theorem launchState_iff (s : State) : launchState s = true ↔ s.fsm = .idle ∧ safeState s = true := by
  simp only [launchState, Bool.and_eq_true, decide_eq_true_eq]

/-- R912: the run has ended exactly if no word is ahead and BUSY = 0. -/
theorem runEnded_iff (s : State) :
    runEnded s = true ↔ (∀ cw, HostMove.present cw ∉ s.inputs) ∧ s.fsm = .idle := by
  have accepted : allAccepted s = true ↔ ∀ cw, HostMove.present cw ∉ s.inputs := by
    simp only [allAccepted, List.all_eq_true]
    constructor
    · exact fun h cw hm => Bool.false_ne_true (h _ hm)
    · intro h m hm
      cases m with
      | present cw => exact absurd hm (h cw)
      | read addr => rfl
      | reset => rfl
      | wait => rfl
      | waitIdle => rfl
  simp only [runEnded, Bool.and_eq_true, accepted, busy, Bool.not_eq_true', decide_eq_false_iff_not, ne_eq, not_not]

/-- What the host does, and what it has read, has no part in safety. -/
@[simp] theorem safeState_inputs (s : State) (moves : List HostMove) :
    safeState { s with inputs := moves } = safeState s := rfl

@[simp] theorem safeState_hostRead (addr : BitVec 4) (s : State) : safeState (hostRead addr s) = safeState s := rfl

end Sys2Proof.Machine
end

