-- ==== Sys2Proof/Tests/Slice0.lean ====
section
/-! SUPPORT. Tests with expected values from spec/95_test_vectors.md and the rules' own examples, the ill-formed terms WellFormed
refuses, and for every statement with hypotheses a concrete state that meets them (`witness_<statement>`). -/

namespace Sys2Proof.Tests

open Sys2Proof.Machine

/-! ### Helpers -/

/-- The state after one step that accepts the word, if there is one. -/
def afterWord (cw : CommandWord) (s : State) : Option State :=
  match step (presentNext cw s) with
  | .next t => some t
  | .fault _ => none
  | .refused _ => none

/-- STATUS after one step that accepts the word. -/
def statusAfter (cw : CommandWord) (s : State) : Option Word := (afterWord cw s).map statusWord

/-- The digest words after one step that accepts the word. -/
def digestAfter (cw : CommandWord) (s : State) : Option (List Word) := (afterWord cw s).map fun t => t.digest.toList

/-- "After INIT; FINISH" of section 2.8: the DONE phase with one block counted. -/
def doneState (code : BitVec 2) : State :=
  { State.reset with done := true, completedBlocks := 1, errcode := code, digest := romIV }

/-- The named launch states of P6 and P7. -/
def limitState (np : BitVec 6) : State :=
  { State.reset with
    completedBlocks := 0x7fffffffffffff
    numPending := np
    pending := (List.range 63).map fun i => (i, 0) }

/-- The message "abc" pending. -/
def abcPending : State := { State.reset with numPending := 3, pending := [(0, 0x61), (1, 0x62), (2, 0x63)] }

/-- Zero bytes pending, as many as given. -/
def zerosPending (n : Nat) : State :=
  { State.reset with numPending := BitVec.ofNat 6 n, pending := (List.range n).map fun i => (i, 0) }

/-- The "abc" block of section 2.3. -/
def abcBlock : List Byte := [0x61, 0x62, 0x63, 0x80] ++ List.replicate 59 0 ++ [0x18]

/-- A busy engine, in the middle of a PUSH of two bytes. -/
def appendingState : State :=
  { State.reset with fsm := .append, mode := .pushing, inq := [0x61, 0x62] }

/-- The engine with the same moves of the host ahead. -/
def withMoves (moves : List HostMove) (s : State) : State := { s with inputs := moves }

/-! ### WellFormed -/

theorem test_push_of_no_bytes_is_ill_formed : (Instr.push []).wf = false := by decide

theorem test_push_of_five_bytes_is_ill_formed : (Instr.push [1, 2, 3, 4, 5]).wf = false := by decide

theorem test_push_of_one_and_four_bytes_is_well_formed :
    (Instr.push [1]).wf = true ∧ (Instr.push [1, 2, 3, 4]).wf = true := by decide

/-! ### Decoding: words written out from R300 to R303 and sections 2.5 and 2.8 of spec/95_test_vectors.md -/

theorem test_decode_nop : decodeTableWord 40 0x0000000000 = some .nop := by decide

theorem test_decode_init : decodeTableWord 40 0x1000000000 = some .init := by decide

theorem test_decode_push1 : decodeTableWord 40 0x2061000000 = some (.push [0x61]) := by decide

theorem test_decode_push2 : decodeTableWord 40 0x2461620000 = some (.push [0x61, 0x62]) := by decide

theorem test_decode_push3 : decodeTableWord 40 0x2861626300 = some (.push [0x61, 0x62, 0x63]) := by decide

theorem test_decode_push4 : decodeTableWord 40 0x2c61626364 = some (.push [0x61, 0x62, 0x63, 0x64]) := by decide

theorem test_decode_finish : decodeTableWord 40 0x3000000000 = some .finish := by decide

theorem test_decode_clrerr : decodeTableWord 40 0x4000000000 = some .clrerr := by decide

/-- OP = 0010, NBM1 = 10, RSVD = 11, DATA = 61 62 63 ff, bit by bit. -/
theorem test_decode_push3_from_bits :
    decodeTableWord 40 0b0010_10_11_01100001_01100010_01100011_11111111 = some (.push [0x61, 0x62, 0x63]) := by decide

theorem test_decode_ignores_other_fields :
    decodeTableWord 40 0x1fffffffff = some .init ∧ decodeTableWord 40 0x3000abcdef = some .finish := by decide

theorem test_decode_refuses_illegal_opcodes :
    decodeTableWord 40 0x5000000000 = none ∧ decodeTableWord 40 0xffffffffff = none := by decide

theorem test_encode_spec_words :
    encode (.push [0x61, 0x62, 0x63]) = 0x2861626300 ∧ encode .init = 0x1000000000 ∧
    encode (.push [0x61, 0x62]) = 0x2461620000 ∧ encode .clrerr = 0x4000000000 := by decide

/-! ### Word operations (section 2.1) -/

theorem test_add_wraps :
    (0xffffffff + 1 : Word) = 0 ∧ (0x7fffffff + 1 : Word) = 0x80000000 ∧
    (0xffffffff + 0xffffffff + 0xffffffff + 0xffffffff + 0xffffffff : Word) = 0xfffffffb := by decide

theorem test_bitwise_operators :
    (0xff00ff00 &&& 0x0ff00ff0 : Word) = 0x0f000f00 ∧ (0xff00ff00 ||| 0x0ff00ff0 : Word) = 0xfff0fff0 ∧
    (0xff00ff00 ^^^ 0x0ff00ff0 : Word) = 0xf0f0f0f0 ∧ (~~~0x0f0f0f0f : Word) = 0xf0f0f0f0 := by decide

theorem test_rotr :
    rotr 0x80000001 1 = 0xc0000000 ∧ rotr 0x12345678 0 = 0x12345678 ∧ rotr 0x12345678 8 = 0x78123456 ∧
    rotr 0x12345678 31 = 0x2468acf0 ∧ rotr 0x12345678 32 = 0x12345678 := by decide

theorem test_shr :
    shr 0x80000000 3 = 0x10000000 ∧ shr 0xffffffff 10 = 0x003fffff ∧ shr 0xffffffff 31 = 1 ∧
    shr 0xffffffff 32 = 0 := by decide

theorem test_sigma_functions :
    bigSigma0 0x6a09e667 = 0xce20b47e ∧ bigSigma1 0x510e527f = 0x3587272b ∧
    smallSigma0 0x80000000 = 0x11002000 ∧ smallSigma0 0x61626380 = 0x940e90ef ∧
    smallSigma1 0x80000000 = 0x00205000 ∧ smallSigma1 0x00000018 = 0x000f0000 := by decide

theorem test_ch_and_maj :
    ch 0x510e527f 0x9b05688c 0x1f83d9ab = 0x1f85c98c ∧ ch 0 0x12345678 0x9abcdef0 = 0x9abcdef0 ∧
    maj 0x6a09e667 0xbb67ae85 0x3c6ef372 = 0x3a6fe667 ∧ maj 0xffffffff 0 0x12345678 = 0x12345678 := by decide

/-! ### Byte order (section 2.2) -/

theorem test_be32 : be32 0x61 0x62 0x63 0x80 = 0x61626380 ∧ be32 0xff 0 0 0 = 0xff000000 := by decide

theorem test_bytes32 : bytes32 0xba7816bf = [0xba, 0x78, 0x16, 0xbf] := by decide

theorem test_bytes64 : bytes64 0x00000000007a1200 = [0, 0, 0, 0, 0, 0x7a, 0x12, 0] := by decide

/-! ### Schedule and compression (sections 2.3 and 2.4) -/

theorem test_schedule_of_abc :
    ((schedule abcBlock).drop 16).take 4 = [0x61626380, 0x000f0000, 0x7da86405, 0x600003c6] ∧
    (schedule abcBlock).drop 60 = [0xa43fcf15, 0x668b2ff8, 0xeeaba2cc, 0x12b1edeb] := by decide +kernel

theorem test_round_0_of_abc :
    round (roundConstant 0) 0x61626380 (workingOf romIV) =
      { a := 0x5d6aebcd, b := 0x6a09e667, c := 0xbb67ae85, d := 0x3c6ef372
        e := 0xfa2a4622, f := 0x510e527f, g := 0x9b05688c, h := 0x1f83d9ab } := by decide

theorem test_compress_abc :
    compressValue romIV abcBlock =
      #v[0xba7816bf, 0x8f01cfea, 0x414140de, 0x5dae2223, 0xb00361a3, 0x96177a9c, 0xb410ff61, 0xf20015ad] := by
  decide +kernel

theorem test_compress_zero_block_of_zero_state :
    compressValue (Vector.replicate 8 0) (List.replicate 64 0) =
      #v[0x7ca51614, 0x425c3ba8, 0xce54dd2f, 0xc2020ae7, 0xb6e574d1, 0x98136d0f, 0xae7e26cc, 0xbf0be7a6] := by
  decide +kernel

/-! ### Commands, one step each (sections 2.5, 2.8 and 2.9, programs P4, P6 and P7) -/

theorem test_step_nop_changes_nothing : afterWord 0x0000000000 abcPending = some abcPending := by decide +kernel

theorem test_step_init_keeps_errcode : statusAfter 0x1fffffffff (doneState 2) = some 0x00000008 := by decide +kernel

theorem test_step_push3_from_reset :
    statusAfter 0x2861626300 State.reset = some 0x00000300 ∧
    (afterWord 0x2861626300 State.reset).map (fun t => t.pending) = some [(0, 0x61), (1, 0x62), (2, 0x63)] := by
  decide +kernel

/-- From NUM_PENDING = 62 a PUSH.4 compresses after its second byte and leaves 63 64 pending. -/
theorem test_step_push4_across_a_block :
    (afterWord 0x2c61626364 (zerosPending 62)).map
      (fun t => (t.numPending, t.completedBlocks, pendingByte t.pending 0, pendingByte t.pending 1)) =
      some (2, 1, 0x63, 0x64) := by decide +kernel

theorem test_step_finish_of_abc_and_of_the_empty_message :
    digestAfter 0x3000000000 abcPending =
      some [0xba7816bf, 0x8f01cfea, 0x414140de, 0x5dae2223, 0xb00361a3, 0x96177a9c, 0xb410ff61, 0xf20015ad] ∧
    digestAfter 0x3000000000 State.reset =
      some [0xe3b0c442, 0x98fc1c14, 0x9afbf4c8, 0x996fb924, 0x27ae41e4, 0x649b934c, 0xa495991b, 0x7852b855] := by
  decide +kernel

/-- P6: FINISH at the length limit compresses two blocks and latches L = fffffffffffffff8. -/
theorem test_step_finish_at_the_limit :
    digestAfter 0x3000000000 (limitState 63) =
      some [0xfd4b187d, 0x978e53ac, 0x38a3e4ca, 0x1cdb558d, 0x9fefb1f7, 0x5ce00a7f, 0xc5f3ed69, 0x7823ab38] ∧
    (afterWord 0x3000000000 (limitState 63)).map (fun t => (t.L, t.completedBlocks)) =
      some (0xfffffffffffffff8, 0x80000000000001) := by decide +kernel

theorem test_step_clrerr : statusAfter 0x4000000000 (doneState 1) = some 0x00000002 := by decide +kernel

theorem test_step_illegal_opcode :
    statusAfter 0x5000000000 State.reset = some 0x00000004 ∧
    statusAfter 0x7000000000 (doneState 0) = some 0x00000006 := by decide +kernel

theorem test_step_sequence_error :
    statusAfter 0x2064000000 (doneState 0) = some 0x0000000a ∧
    statusAfter 0x3000000000 (doneState 0) = some 0x0000000a ∧
    statusAfter 0x2064000000 (doneState 1) = some 0x00000006 := by decide +kernel

theorem test_step_length_limit :
    statusAfter 0x2078000000 (limitState 63) = some 0x00003f0c ∧
    statusAfter 0x2878797a00 (limitState 60) = some 0x00003f00 ∧
    statusAfter 0x2c7778797a (limitState 60) = some 0x00003c0c := by decide +kernel

/-- A read in the middle of a command leaves the engine where it is, however often it is repeated (R210, R910). -/
theorem test_reads_do_not_advance_the_engine :
    Host.Core.run core 3 (withMoves [.read 0, .read 0, .read 15] appendingState) =
      .next { appendingState with rdata := readPort 2 appendingState 15, draws := 3 } := rfl

/-- R309: WAIT at BUSY = 0 is one read of STATUS (section 2.8: DONE = 1 and ERRCODE = 1 read 00000006). -/
theorem test_wait_at_idle_reads_status_once :
    step (withMoves [.waitIdle, .read 8] (doneState 1)) =
      .next { doneState 1 with inputs := [.read 8], rdata := 0x00000006, draws := 1 } := rfl

/-- R309: WAIT in the middle of a PUSH of two bytes reads STATUS three times, and the last read shows two bytes pending. -/
theorem test_wait_while_busy_reads_until_idle :
    ∃ t : State, Host.Core.run core 3 (withMoves [.waitIdle] appendingState) = .next t ∧
      t.inputs = [] ∧ t.rdata = 0x00000200 ∧ t.draws = 3 := by
  exact ⟨_, (run_succ 2 (step_waitIdle_of_busy rfl rfl rfl)).trans (run_succ 1 (step_waitIdle_of_busy rfl rfl rfl)),
    rfl, rfl, rfl⟩

/-- R309: the line WAIT is no command, and the host reads for it; PUSHW and UPDATE of section 2.5. -/
theorem test_program_moves :
    assembleLine .wait = [] ∧
    programMoves [.pushW 0x61626364, .wait, .update [0x61, 0x62, 0x63, 0x64, 0x61, 0x62]] =
      [.present 0x2c61626364, .waitIdle, .present 0x2c61626364, .present 0x2461620000] := by decide

/-- R912: reads and waits still ahead do not keep a run from having ended; a word ahead and a busy engine do. -/
theorem test_run_has_ended :
    runEnded (withMoves [.waitIdle, .read 8, .wait] (doneState 0)) = true ∧
    runEnded (withMoves [.waitIdle, .present 0x0000000000] (doneState 0)) = false ∧
    runEnded (withMoves [.waitIdle] appendingState) = false := by decide

/-- R912: a PUSH of two bytes under way, with a WAIT behind it, ends at its second micro-step, before the WAIT's last read. -/
theorem test_run_ends_before_the_wait :
    ∃ t : State, Host.Core.run core 2 (withMoves [.waitIdle] appendingState) = .next t ∧
      t.inputs = [.waitIdle] ∧ runEnded t = true := by
  refine ⟨_, (run_succ 1 (step_waitIdle_of_busy rfl rfl rfl)).trans (run_succ 0 (step_waitIdle_of_busy rfl rfl rfl)), rfl, rfl⟩

/-- The host's placing of a word: the very next step from reset runs it. -/
theorem test_withFetchWord_runs_the_word :
    (match step (State.reset.withFetchWord 40 0x2061000000) with
      | .next t => some t.numPending
      | .fault _ => none
      | .refused _ => none) = some 1 := by decide +kernel

/-! ### Padding (section 2.6) and the iterative datapath (section 2.7) -/

theorem test_zero_counts :
    [0, 3, 55, 56, 63, 64, 112, 120].map zeroCount = [55, 52, 0, 63, 56, 55, 7, 63] := by decide

theorem test_finish_micro_step_counts :
    [0, 3, 55, 56, 63].map (fun n => finishMicroSteps (zerosPending n)) = [133, 130, 78, 207, 200] := by decide +kernel

/-- PUSH.4 from NUM_PENDING = 61 takes 70 micro-steps of the reference realisation, and agrees with its transaction. -/
theorem test_push_micro_steps :
    pushMicroSteps 4 (zerosPending 61) = 70 ∧
    busySteps 1 70 (acceptCommand (.push [1, 2, 3, 4]) (zerosPending 61)) = pushEffect [1, 2, 3, 4] (zerosPending 61) := by
  decide +kernel

theorem test_pad_step_switches_to_the_length :
    (padStep { zerosPending 56 with fsm := .pad, pad := .padz }).pad = .padlen 7 := by decide

/-! ### Witnesses: the hypotheses of each statement hold together somewhere -/

theorem witness_DecodeEncodeRoundTrip :
    (Instr.push [0xff]).wf = true ∧ (Instr.push [0, 1, 2, 0xff]).wf = true ∧ Instr.finish.wf = true := by decide

theorem witness_OpcodeAloneSelectsCommand :
    opField 0x0fffffffff = 0x0 ∧ opField 0x1000000000 = 0x1 ∧ opField 0x2000000000 = 0x2 ∧ opField 0x3000000000 = 0x3 ∧
    opField 0x4fffffffff = 0x4 ∧ 0x5 ≤ (opField 0x5000000000).toNat ∧ 0x5 ≤ (opField 0xffffffffff).toNat := by decide

theorem witness_PushOperandsComeFromTheWord : opField 0x2000000000 = 0x2 ∧ opField 0x2fffffffff = 0x2 := by decide

theorem witness_IgnoredFieldsDoNotMatter :
    opField 0x2b616263ff = opField 0x2861626300 ∧ nbm1Field 0x2b616263ff = nbm1Field 0x2861626300 ∧
    (∀ k : Fin 3, dataByte (dataField 0x2b616263ff) k = dataByte (dataField 0x2861626300) k) := by decide

theorem witness_EncodeWritesIgnoredFieldsZero :
    decode 0x2b616263ff = .ok (.push [0x61, 0x62, 0x63]) ∧ decode 0x1fffffffff = .ok .init := ⟨rfl, rfl⟩

theorem witness_ResetAtAnyStep :
    (withMoves [.reset, .reset] appendingState).inputs = .reset :: [.reset] := by decide

theorem witness_StepRunsAcceptedCommand :
    launchState (withMoves [.present 0x3000000000] (limitState 63)) = true ∧
    (limitState 63).level = .transaction ∧ decode 0x3000000000 = .ok .finish := ⟨by decide +kernel, rfl, rfl⟩

theorem witness_MicroStepAcceptsCommand :
    launchState { withMoves [.present 0x2061000000] State.reset with level := .micro } = true ∧
    decode 0x2061000000 = .ok (.push [0x61]) := ⟨by decide +kernel, rfl⟩

/-- Each code of the checks, the length check at its two sides. -/
theorem witness_CommandChecksInOrder :
    launchState (withMoves [.present 0x5000000000] (doneState 0)) = true ∧
    launchState (withMoves [.present 0x3000000000] (doneState 0)) = true ∧ (doneState 0).done = true ∧
    launchState (withMoves [.present 0x2c7778797a] (limitState 60)) = true ∧
    totalBytes (limitState 60) + 4 = 2 ^ 61 - 1 + 1 ∧ totalBytes (limitState 60) + 3 = 2 ^ 61 - 1 ∧
    launchState (withMoves [.present 0x4000000000] (doneState 3)) = true := by decide +kernel

theorem witness_PresentedWordHeldWhileBusy :
    safeState (withMoves [.present 0x3000000000] appendingState) = true ∧ busy appendingState = true := by decide +kernel

theorem witness_IdleEngineKeepsItsState :
    launchState State.reset = true ∧ State.reset.inputs = [] ∧
    launchState (withMoves [.wait] (doneState 0)) = true := by decide +kernel

theorem witness_ReadsHaveNoSideEffect :
    safeState (withMoves [.read 15] (doneState 0)) = true ∧ (doneState 0).fsm = .idle ∧
    safeState (withMoves [.read 0] appendingState) = true ∧ appendingState.fsm ≠ .idle ∧
    safeState (withMoves ([0, 0, 15].map HostMove.read ++ [.present 0]) appendingState) = true ∧
    ([0, 0, 15] : List (BitVec 4)) = [0, 0] ++ [15] := by decide +kernel

theorem witness_ReadPortShowsTheRegisters :
    State.reset.fsm = .idle ∧ appendingState.fsm ≠ .idle ∧ (3 : BitVec 4).toNat = 3 ∧ (7 : BitVec 4).toNat = 7 := by decide

theorem witness_NopHasNoEffect :
    launchState (withMoves [.present 0x0fffffffff] (doneState 2)) = true ∧ opField 0x0fffffffff = 0x0 := by decide +kernel

theorem witness_InitGivesFreshContext :
    launchState (withMoves [.present 0x1fffffffff] abcPending) = true ∧ opField 0x1fffffffff = 0x1 := by decide +kernel

theorem witness_ClrerrClearsErrcodeOnly :
    launchState (withMoves [.present 0x4fffffffff] (doneState 3)) = true ∧ opField 0x4fffffffff = 0x4 := by decide +kernel

theorem witness_PushWithinABlock :
    (limitState 60).done = false ∧ totalBytes (limitState 60) + 3 ≤ Config.maxMessageBytes ∧
    (limitState 60).numPending.toNat + 3 < 64 ∧ (∀ k, k < 3 → 0 ≠ 60 + k) := by
  refine ⟨by decide, by decide +kernel, by decide, ?_⟩
  omega

theorem witness_PushCompletingABlock :
    (Instr.push [1, 2, 3, 4]).wf = true ∧ (zerosPending 61).done = false ∧
    totalBytes (zerosPending 61) + 4 ≤ Config.maxMessageBytes ∧ 64 ≤ (zerosPending 61).numPending.toNat + 4 ∧
    (∀ k : Fin 4, 1 ≠ (61 + k.val) % 64) := by decide +kernel

theorem witness_PushPastTheLimitRecordsLength :
    (limitState 63).done = false ∧
    2 ^ 61 - 1 < (limitState 63).completedBlocks.toNat * 64 + (limitState 63).numPending.toNat + 1 ∧
    (limitState 63).errcode ≠ 3 := by decide +kernel

theorem witness_PushPastTheLimitRecordsLength_finish :
    ∃ t, exec .finish (limitState 63) = .next t ∧ (limitState 63).errcode ≠ 3 :=
  ⟨_, exec_finish _, by decide⟩

theorem witness_ConsumedContextRecordsSequence :
    (doneState 0).done = true ∧ (doneState 1).done = true ∧ exec .nop (doneState 0) = .next (doneState 0) ∧
    (doneState 0).errcode ≠ 2 := ⟨rfl, rfl, rfl, by decide⟩

/-- N = 55 and N = 56 straddle the one-block limit; N = 2^61 - 1 is the length limit. -/
theorem witness_FinishPadsAndCaptures :
    (zerosPending 55).done = false ∧ totalBytes (zerosPending 55) ≤ Config.maxMessageBytes ∧
    totalBytes (zerosPending 55) % 64 = 55 ∧ totalBytes (zerosPending 56) % 64 = 56 ∧
    totalBytes (limitState 63) = Config.maxMessageBytes ∧
    (∀ k : Fin 9, 54 ≠ (55 + k.val) % 64) := by decide +kernel

theorem witness_FinishDigestsThePaddedTail :
    abcPending.done = false ∧ totalBytes abcPending ≤ Config.maxMessageBytes := by decide +kernel

theorem witness_DoneContextStaysFixed :
    (doneState 0).done = true ∧ exec .finish (doneState 0) = .next (raiseError .sequence (doneState 0)) :=
  ⟨rfl, rfl⟩

theorem witness_OnlyFinishAndInitMoveThePhase :
    (∃ t, step (withMoves [.reset] (doneState 0)) = .next t ∧ (doneState 0).done = true ∧ t.done = false) ∧
    (∃ t, step (withMoves [.wait] { appendingState with fsm := .capture }) = .next t ∧
      appendingState.done = false ∧ t.done = true) :=
  ⟨⟨_, rfl, rfl, rfl⟩, ⟨_, rfl, rfl, rfl⟩⟩

theorem witness_ErrcodeKeepsTheFirstError :
    (∃ t, step (withMoves [.present 0x4000000000] (doneState 1)) = .next t ∧ t.errcode ≠ (doneState 1).errcode) ∧
    (∃ t, step (withMoves [.present 0x5000000000] (doneState 0)) = .next t ∧ t.errcode ≠ (doneState 0).errcode) :=
  ⟨⟨_, rfl, by decide⟩, ⟨_, rfl, by decide⟩⟩

theorem witness_ReadPortHidesMidStreamState :
    State.reset.fsm = .idle ∧ (∀ i, i ∈ [Instr.push [0x61], .clrerr] → i ≠ .finish) ∧
    ∃ t, runInstrs [.push [0x61], .clrerr] State.reset = .next t :=
  ⟨rfl, by decide, _, rfl⟩

theorem witness_StreamingEquivalence :
    [Instr.push [1, 2], .push [3]].all isPush = true ∧ [Instr.push [1], .push [2, 3]].all isPush = true ∧
    carriedBytes [.push [1, 2], .push [3]] = carriedBytes [.push [1], .push [2, 3]] ∧ State.reset.done = false ∧
    totalBytes State.reset + 3 ≤ Config.maxMessageBytes := by decide +kernel

theorem witness_UpdateAccountsForEveryByte :
    State.reset.done = false ∧ totalBytes State.reset = 0 ∧
    totalBytes State.reset + (List.replicate 128 (0x61 : Byte)).length ≤ Config.maxMessageBytes ∧
    (List.replicate 128 (0x61 : Byte)).length % 64 = 0 := by decide +kernel

theorem witness_HashComputesSha256 : ([0x61, 0x62, 0x63] : List Byte).length ≤ Config.maxMessageBytes := by decide +kernel

theorem witness_PortPerformsCommandsInOrder :
    launchState (withMoves ([Instr.push [0x61], .finish].map (fun i => HostMove.present (encode i)) ++ [.wait])
      State.reset) = true ∧
    State.reset.level = .transaction ∧ [Instr.push [0x61], .finish].all Instr.wf = true := by decide +kernel

theorem witness_WindowComputesTheSchedule : { zerosPending 63 with fsm := .load }.fsm = .load := rfl

theorem witness_PushMicroStepsRefineTransaction :
    1 ≤ 64 ∧ (Instr.push [1, 2, 3, 4]).wf = true ∧ (zerosPending 61).fsm = .idle ∧ (zerosPending 61).done = false ∧
    totalBytes (zerosPending 61) + 4 ≤ Config.maxMessageBytes := by decide +kernel

theorem witness_FinishMicroStepsRefineTransaction :
    1 ≤ 1 ∧ (zerosPending 56).fsm = .idle ∧ (zerosPending 56).done = false := by decide

theorem witness_UnbusyCommandsCompleteAtAcceptance :
    (doneState 0).fsm = .idle ∧ (doneState 0).done = true ∧ (limitState 63).fsm = .idle ∧
    Config.maxMessageBytes < totalBytes (limitState 63) + 1 := by decide +kernel

theorem witness_ReferenceMicroStepCounts :
    (Instr.push [1]).wf = true ∧ (zerosPending 63).fsm = .idle ∧ (zerosPending 63).done = false ∧
    totalBytes (zerosPending 63) + 1 ≤ Config.maxMessageBytes ∧ (zerosPending 63).numPending.toNat + 1 = 64 ∧
    (zerosPending 62).numPending.toNat + 1 < 64 ∧ totalBytes (zerosPending 55) % 64 < 56 ∧
    ¬ totalBytes (zerosPending 56) % 64 < 56 := by decide +kernel

/-- A safe busy state of each sequencing state but IDLE. -/
theorem witness_BusyEngineReachesIdle :
    1 ≤ 1 ∧ safeState appendingState = true ∧
    safeState { zerosPending 63 with fsm := .load, mode := .pushing } = true ∧
    safeState { zerosPending 63 with fsm := .round, mode := .pushing, inq := [1] } = true ∧
    safeState { zerosPending 63 with fsm := .feedback, mode := .pushing, inq := [1, 2, 3] } = true ∧
    safeState { zerosPending 56 with fsm := .pad, mode := .finishing, pad := .pad80, L := 448 } = true ∧
    safeState { State.reset with fsm := .capture, mode := .finishing, pad := .paddone, completedBlocks := 1 } = true := by
  decide +kernel

theorem witness_EveryStepKeepsSafeStates :
    safeState (withMoves [.wait] appendingState) = true ∧
    ∃ t, step (withMoves [.wait] appendingState) = .next t := ⟨by decide +kernel, _, rfl⟩

theorem witness_SafeStatesNeverStop : safeState appendingState = true ∧ safeState (limitState 63) = true := by decide +kernel

/-- One byte past the limit, with no move of the host ahead. -/
theorem witness_StatePastTheLimitFaults :
    { State.reset with completedBlocks := 0x80000000000000 }.fsm = .idle ∧
    2 ^ 61 - 1 < ({ State.reset with completedBlocks := 0x80000000000000 } : State).completedBlocks.toNat * 64 + 0 ∧
    (∀ rest, State.reset.inputs ≠ .reset :: rest) := ⟨rfl, by decide, by simp [State.reset]⟩

theorem witness_EveryStepKeepsTheDigestLaw :
    safeState (withMoves [.present 0x1000000000] (doneState 0)) = true ∧ digestLaw (doneState 0) ∧
    digestLaw State.reset ∧ ∃ t, step (withMoves [.present 0x1000000000] (doneState 0)) = .next t :=
  ⟨by decide +kernel, ⟨rfl, rfl, rfl⟩, rfl, _, rfl⟩

theorem witness_BlockCounterStaysBelowItsModulus :
    safeState { doneState 0 with completedBlocks := 0x80000000000001 } = true := by decide +kernel

theorem witness_RunOfCommandsEnds :
    safeState (withMoves [.present 0x2061000000, .read 0, .wait, .present 0x3000000000, .waitIdle] appendingState) = true ∧
    noReset (withMoves [.present 0x2061000000, .read 0, .wait, .present 0x3000000000, .waitIdle] appendingState) = true := by
  decide +kernel

/-- The length limit with `done = 0`, one block and the two blocks past 2^55 - 1 with `done = 1`; pending bytes or no block with
`done = 1` are no launch state. -/
theorem witness_SafeBoundaryCountsMessageAndPadding :
    safeState (limitState 63) = true ∧ (limitState 63).fsm = .idle ∧ (limitState 63).done = false ∧
    safeState (doneState 0) = true ∧ (doneState 0).fsm = .idle ∧ (doneState 0).done = true ∧
    safeState { doneState 0 with completedBlocks := 0x80000000000001 } = true ∧
    launchState { doneState 0 with completedBlocks := 0x80000000000002 } = false ∧
    launchState { doneState 0 with completedBlocks := 0 } = false ∧
    launchState { doneState 0 with numPending := 5 } = false := by decide +kernel

theorem witness_WaitReadsStatusUntilNotBusy :
    safeState (withMoves [.waitIdle] appendingState) = true ∧ appendingState.fsm ≠ .idle ∧
    safeState (withMoves [.waitIdle, .read 8] (doneState 0)) = true ∧ (doneState 0).fsm = .idle := by decide +kernel

theorem witness_LibraryFinishDeliversTheDigest :
    launchState (withMoves (libraryFinish ++ [.wait]) abcPending) = true ∧ abcPending.done = false ∧
    launchState (withMoves libraryFinish { limitState 63 with level := .micro }) = true := by decide +kernel

end Sys2Proof.Tests
end

section
/-! PROOFS. The decoder (R301 to R305 of spec/30_encoding.md): one equation per row of the opcode map, what the operands of a PUSH
are, and the statements that follow. -/

namespace Sys2Proof.Decoding

open Sys2Proof.Machine

/-! ### One equation per row of the opcode map (R301) -/

section
variable {cw : CommandWord}

theorem decode_of_op_nop (h : opField cw = 0x0) : decode cw = .ok .nop := by simp [decode, h]

theorem decode_of_op_init (h : opField cw = 0x1) : decode cw = .ok .init := by simp [decode, h]

theorem decode_of_op_push (h : opField cw = 0x2) :
    decode cw = .ok (.push (pushBytes (nbm1Field cw) (dataField cw))) := by simp [decode, h]

theorem decode_of_op_finish (h : opField cw = 0x3) : decode cw = .ok .finish := by simp [decode, h]

theorem decode_of_op_clrerr (h : opField cw = 0x4) : decode cw = .ok .clrerr := by simp [decode, h]

/-- R305: no row of the map is left for OP = 0x5 to 0xF. -/
theorem decode_of_op_reserved (h : 0x5 ≤ (opField cw).toNat) : decode cw = .error (.illegalOp (opField cw)) := by
  unfold decode
  split
  case h_6 => rfl
  all_goals omega

end

/-- R301: outside PUSH, no field but OP reaches the decoded command. -/
theorem decode_eq_of_opField_eq {cw cw' : CommandWord} (hop : opField cw = opField cw') (hpush : opField cw ≠ 0x2) :
    decode cw = decode cw' := by
  unfold decode
  rw [← hop]
  split
  case h_3 h => exact absurd (BitVec.eq_of_toNat_eq h) hpush
  all_goals rfl

/-! ### The operands of a PUSH (R302, R303) -/

@[simp] theorem length_pushBytes (n : BitVec 2) (data : Word) : (pushBytes n data).length = n.toNat + 1 := by
  simp [pushBytes, pushCount]

theorem getElem?_pushBytes {n : BitVec 2} {k : Nat} (data : Word) (hk : k ≤ n.toNat) :
    (pushBytes n data)[k]? = some (dataByte data k) := by
  simp [pushBytes, pushCount, List.getElem?_range (Nat.lt_succ_of_le hk)]

/-- R304: a PUSH of `n` bytes does not see `byte(k)` for `k ≥ n`. -/
theorem pushBytes_congr {n : BitVec 2} {data data' : Word}
    (h : ∀ k, k ≤ n.toNat → dataByte data k = dataByte data' k) : pushBytes n data = pushBytes n data' :=
  List.map_congr_left fun k hk => h k (Nat.le_of_lt_succ (List.mem_range.mp hk))

/-- R300, R303: DATA is the low end of the word, so bit `j` of `byte(k)` is bit `24 - 8k + j` of the word. -/
theorem getLsbD_dataByte_dataField (cw : CommandWord) (k : Nat) {j : Nat} (hj : j < 8) :
    (dataByte (dataField cw) k).getLsbD j = cw.getLsbD (24 - 8 * k + j) := by
  simp [dataByte, dataField, hj]

/-! ### The statements -/

/-- Settles O3: the bytes are `pushBytes` of the fields NBM1 and DATA. -/
theorem pushOperandsComeFromTheWord : Obligations.PushOperandsComeFromTheWord := by
  intro cw hop
  refine ⟨_, decode_of_op_push hop, length_pushBytes _ _, fun k hk => ?_⟩
  have hle : k ≤ (nbm1Field cw).toNat := by
    rw [length_pushBytes] at hk
    exact Nat.le_of_lt_succ hk
  exact ⟨_, getElem?_pushBytes _ hle, fun j hj => getLsbD_dataByte_dataField cw k hj⟩

/-- Settles O4: a PUSH reads NBM1 and the bytes `k ≤ NBM1` of DATA, every other word its OP alone. -/
theorem ignoredFieldsDoNotMatter : Obligations.IgnoredFieldsDoNotMatter := by
  intro cw cw' hop hused
  by_cases hpush : opField cw = 0x2
  · obtain ⟨hnbm1, hbytes⟩ := hused hpush
    rw [decode_of_op_push hpush, decode_of_op_push (hop ▸ hpush), ← hnbm1, pushBytes_congr hbytes]
  · exact decode_eq_of_opField_eq hop hpush

/-- Settles O2, row by row of the opcode map. -/
theorem opcodeAloneSelectsCommand : Obligations.OpcodeAloneSelectsCommand := fun _ =>
  ⟨decode_of_op_nop, decode_of_op_init, fun h => ⟨_, decode_of_op_push h⟩, decode_of_op_finish, decode_of_op_clrerr,
    decode_of_op_reserved⟩

end Sys2Proof.Decoding
end

section
/-! PROOFS. The word operations (R405, R406, R411, R412 of spec/40_word_ops.md): what each puts in bit `i` of its result, and the
statements that follow. -/

namespace Sys2Proof.WordOps

open Sys2Proof.Machine

/-! ### Rotation and shift (R405, R406) -/

/-- R405, at every amount (D25): bits below `32 - n % 32` come from further up in `x`, the others wrap around to its low end. -/
theorem getLsbD_rotr (x : Word) (n : Nat) {i : Nat} (hi : i < 32) :
    (rotr x n).getLsbD i = x.getLsbD ((i + n) % 32) := by
  rw [rotr, BitVec.getLsbD_rotateRight, Bool.cond_decide]
  split
  case isTrue hlow =>
    have hidx : n % 32 + i = (i + n) % 32 := by omega
    rw [hidx]
  case isFalse hwrap =>
    have hidx : i - (32 - n % 32) = (i + n) % 32 := by omega
    rw [hidx, decide_eq_true hi, Bool.true_and]

@[simp] theorem getLsbD_shr (x : Word) (n i : Nat) : (shr x n).getLsbD i = x.getLsbD (i + n) := by
  rw [shr, BitVec.getLsbD_ushiftRight, Nat.add_comm]

/-- Rotation amounts add. -/
theorem rotr_rotr (x : Word) (m n : Nat) : rotr (rotr x m) n = rotr x (m + n) := by
  refine BitVec.eq_of_getLsbD_eq fun i hi => ?_
  have hidx : ((i + n) % 32 + m) % 32 = (i + (m + n)) % 32 := by omega
  rw [getLsbD_rotr _ _ hi, getLsbD_rotr _ _ (Nat.mod_lt _ (by decide)), getLsbD_rotr _ _ hi, hidx]

@[simp] theorem rotr_32 (x : Word) : rotr x 32 = x := by
  refine BitVec.eq_of_getLsbD_eq fun i hi => ?_
  rw [getLsbD_rotr _ _ hi, Nat.add_mod_right, Nat.mod_eq_of_lt hi]

/-! ### Ch and Maj (R411, R412) -/

/-- Also past bit 31, where the complement reads false: there `g` reads false too. -/
theorem getLsbD_not_and (e g : Word) (i : Nat) : (~~~e &&& g).getLsbD i = (!e.getLsbD i && g.getLsbD i) := by
  by_cases hi : i < 32
  · simp [hi]
  · simp [BitVec.getLsbD_of_ge g i (Nat.le_of_not_lt hi)]

theorem getLsbD_ch (e f g : Word) (i : Nat) :
    (ch e f g).getLsbD i = if e.getLsbD i then f.getLsbD i else g.getLsbD i := by
  rw [ch, BitVec.getLsbD_xor, BitVec.getLsbD_and, getLsbD_not_and]
  cases e.getLsbD i <;> simp

theorem getLsbD_chOr (e f g : Word) (i : Nat) :
    (chOr e f g).getLsbD i = if e.getLsbD i then f.getLsbD i else g.getLsbD i := by
  rw [chOr, BitVec.getLsbD_or, BitVec.getLsbD_and, getLsbD_not_and]
  cases e.getLsbD i <;> simp

theorem getLsbD_majOr (a b c : Word) (i : Nat) :
    (majOr a b c).getLsbD i = Bool.atLeastTwo (a.getLsbD i) (b.getLsbD i) (c.getLsbD i) := by
  simp only [majOr, BitVec.getLsbD_or, BitVec.getLsbD_and, Bool.atLeastTwo]

/-- XOR and OR of the three conjunctions agree: where two of them are 1, all three are. -/
theorem getLsbD_maj (a b c : Word) (i : Nat) :
    (maj a b c).getLsbD i = Bool.atLeastTwo (a.getLsbD i) (b.getLsbD i) (c.getLsbD i) := by
  simp only [maj, BitVec.getLsbD_xor, BitVec.getLsbD_and]
  generalize a.getLsbD i = p, b.getLsbD i = q, c.getLsbD i = r
  revert p q r
  decide

theorem atLeastTwo_iff_two_le_sum :
    ∀ p q r : Bool, Bool.atLeastTwo p q r = true ↔ 2 ≤ p.toNat + q.toNat + r.toNat := by
  decide

theorem ch_eq_chOr (e f g : Word) : ch e f g = chOr e f g :=
  BitVec.eq_of_getLsbD_eq fun i _ => (getLsbD_ch e f g i).trans (getLsbD_chOr e f g i).symm

theorem maj_eq_majOr (a b c : Word) : maj a b c = majOr a b c :=
  BitVec.eq_of_getLsbD_eq fun i _ => (getLsbD_maj a b c i).trans (getLsbD_majOr a b c i).symm

/-! ### The statements -/

/-- Settles O34: Ch and Maj bit by bit, and the OR forms have the same bits. -/
theorem chooseAndMajorityBitwise : Obligations.ChooseAndMajorityBitwise := by
  refine ⟨getLsbD_ch, fun a b c i _ => ?_, ch_eq_chOr, maj_eq_majOr⟩
  rw [getLsbD_maj]
  exact atLeastTwo_iff_two_le_sum _ _ _

/-- Settles O35: the two rotations add up to a rotation by 32. -/
theorem rotateAndShiftBitwise : Obligations.RotateAndShiftBitwise := by
  refine ⟨fun x n i hi => getLsbD_rotr x n hi, fun x n i _ => ?_, fun x n hn => ?_⟩
  · rw [getLsbD_shr]
    split
    case isTrue => rfl
    case isFalse hout => exact BitVec.getLsbD_of_ge x _ (by omega)
  · rw [rotr_rotr, Nat.add_sub_cancel' hn, rotr_32]

end Sys2Proof.WordOps
end

section
/-! PROOFS. The endianness converter (R450 to R454 of spec/41_byte_order.md): the bytes each direction gives, that BE32 and BYTES32
are inverse, and the statement that follows. -/

namespace Sys2Proof.ByteOrder

open Sys2Proof.Machine Sys2Proof.Decoding

/-! ### BE32 and BYTES32 (R450, R451) -/

theorem be32_eq_append (b0 b1 b2 b3 : Byte) : be32 b0 b1 b2 b3 = b0 ++ b1 ++ b2 ++ b3 := by
  have hjoin := BitVec.setWidth_append_append_append_eq_shiftLeft_setWidth_or (b := b0) (b' := b1) (b'' := b2) (b''' := b3)
    (w'''' := 32)
  rw [BitVec.setWidth_eq] at hjoin
  exact hjoin.symm

/-- R451 after R450. The fields are sought while the widths still stand as `8 + 8 + …`: a folded sum hides where they join. -/
theorem bytes32_be32 (b0 b1 b2 b3 : Byte) : bytes32 (be32 b0 b1 b2 b3) = [b0, b1, b2, b3] := by
  rw [be32_eq_append, bytes32]
  simp only [BitVec.extractLsb'_append_eq_ite]
  simp

/-- R450 after R451: adjacent byte fields of a word join to the field they cover together. -/
theorem be32_extractLsb' (w : Word) :
    be32 (w.extractLsb' 24 8) (w.extractLsb' 16 8) (w.extractLsb' 8 8) (w.extractLsb' 0 8) = w := by
  rw [be32_eq_append, BitVec.extractLsb'_append_extractLsb'_eq_extractLsb' (start₁ := 16) (len₁ := 8) rfl,
    BitVec.extractLsb'_append_extractLsb'_eq_extractLsb' (start₁ := 8) (len₁ := 8) rfl,
    BitVec.extractLsb'_append_extractLsb'_eq_extractLsb' (start₁ := 0) (len₁ := 8) rfl, BitVec.extractLsb'_eq_self]

@[simp] theorem length_bytes32 (w : Word) : (bytes32 w).length = 4 := rfl

/-- R303 and R451 name the same four bytes: a PUSH of a whole word carries BYTES32 of its DATA. -/
theorem bytes32_eq_pushBytes (w : Word) : bytes32 w = pushBytes 3 w := rfl

theorem getElem?_bytes32 (w : Word) {k : Nat} (hk : k < 4) : (bytes32 w)[k]? = some (dataByte w k) := by
  rw [bytes32_eq_pushBytes]
  exact getElem?_pushBytes w (Nat.le_of_lt_succ hk)

/-! ### BYTES64 (R452) -/

theorem getElem?_bytes64 (v : BitVec 64) {k : Nat} (hk : k < 8) :
    (bytes64 v)[k]? = some (v.extractLsb' (56 - 8 * k) 8) := by
  interval_cases k <;> rfl

/-! ### The digest bytes (R454) -/

theorem length_flatMap_bytes32 (ws : List Word) : (ws.flatMap bytes32).length = 4 * ws.length := by
  simp [List.length_flatMap, Nat.mul_comm]

/-- Word `j` takes up bytes `4j` to `4j + 3`. -/
theorem getElem?_flatMap_bytes32 {k : Nat} (hk : k < 4) (ws : List Word) (j : Nat) :
    (ws.flatMap bytes32)[4 * j + k]? = ws[j]?.map (dataByte · k) := by
  induction ws generalizing j with
  | nil => rfl
  | cons w ws ih =>
    rw [List.flatMap_cons]
    cases j with
    | zero =>
      rw [Nat.mul_zero, Nat.zero_add, List.getElem?_append_left hk, getElem?_bytes32 w hk]
      rfl
    | succ j =>
      have hskip : 4 * (j + 1) + k = (bytes32 w).length + (4 * j + k) := by
        rw [length_bytes32]
        omega
      rw [hskip, List.getElem?_append_right (Nat.le_add_right _ _), Nat.add_sub_cancel_left, ih, List.getElem?_cons_succ]

@[simp] theorem length_digestBytes (d : Vector Word 8) : (digestBytes d).length = 32 := by
  rw [digestBytes, length_flatMap_bytes32, Vector.length_toList]

theorem getElem?_digestBytes (d : Vector Word 8) (j : Fin 8) {k : Nat} (hk : k < 4) :
    (digestBytes d)[4 * j.val + k]? = some (dataByte d[j] k) := by
  rw [digestBytes, getElem?_flatMap_bytes32 hk]
  simp

/-! ### The statement -/

/-- Settles O37: byte `4j + k` of the digest is byte `k` of its word `j`, and byte `k` is the field `31 - 8k : 24 - 8k`. -/
theorem converterIsBigEndian : Obligations.ConverterIsBigEndian :=
  ⟨fun b0 b1 b2 b3 => ⟨be32_eq_append b0 b1 b2 b3, bytes32_be32 b0 b1 b2 b3⟩,
    fun w => ⟨rfl, be32_extractLsb' w⟩,
    fun v => ⟨rfl, fun _ hk => getElem?_bytes64 v hk⟩,
    fun d => ⟨length_digestBytes d, fun j _ hk => getElem?_digestBytes d j hk⟩⟩

end Sys2Proof.ByteOrder
end

section
/-! PROOFS. The message schedule (R500, R501 of spec/42_message_schedule.md): extending keeps the words there are, each word added is
the expansion of the words before it, and the statement that follows. -/

namespace Sys2Proof.Schedule

open Sys2Proof.Machine

/-! ### The block load (R453, R500) -/

@[simp] theorem length_blockLoad (block : List Byte) : (blockLoad block).length = 16 := by simp [blockLoad]

theorem getD_blockLoad (block : List Byte) {i : Nat} (hi : i < 16) :
    (blockLoad block).getD i 0 =
      be32 (block.getD (4 * i) 0) (block.getD (4 * i + 1) 0) (block.getD (4 * i + 2) 0) (block.getD (4 * i + 3) 0) := by
  simp [blockLoad, hi]

/-! ### The expansion (R501) -/

@[simp] theorem length_extendSchedule (n : Nat) (W : List Word) : (extendSchedule n W).length = W.length + n := by
  induction n generalizing W with
  | zero => rfl
  | succ n ih =>
    rw [extendSchedule, ih, List.length_append, List.length_singleton]
    omega

/-- Words are added behind the ones there are. -/
theorem prefix_extendSchedule (n : Nat) (W : List Word) : W <+: extendSchedule n W := by
  induction n generalizing W with
  | zero => exact List.prefix_rfl
  | succ n ih => exact (List.prefix_append W _).trans (ih _)

theorem getD_extendSchedule_of_lt (n : Nat) {W : List Word} {i : Nat} (hi : i < W.length) :
    (extendSchedule n W).getD i 0 = W.getD i 0 := by
  obtain ⟨added, hadded⟩ := prefix_extendSchedule n W
  rw [← hadded, List.getD_append W added 0 i hi]

/-- Each word added is the next one after the words before it: the first of them at once, the others by induction. -/
theorem getD_extendSchedule_of_ge {n : Nat} {W : List Word} {i : Nat} (hge : W.length ≤ i) (hlt : i < W.length + n) :
    (extendSchedule n W).getD i 0 = nextScheduleWord ((extendSchedule n W).take i) := by
  induction n generalizing W with
  | zero => omega
  | succ n ih =>
    rw [extendSchedule]
    obtain rfl | hgt := Nat.eq_or_lt_of_le hge
    · have hprefix : W <+: extendSchedule n (W ++ [nextScheduleWord W]) :=
        (List.prefix_append W _).trans (prefix_extendSchedule n _)
      rw [← List.prefix_iff_eq_take.mp hprefix, getD_extendSchedule_of_lt n (by simp)]
      simp
    · exact ih (by simpa using hgt) (by simp; omega)

/-- Before index `i` the list and its first `i` words agree. -/
theorem getD_take_of_lt {W : List Word} {i j : Nat} (hj : j < i) : (W.take i).getD j 0 = W.getD j 0 := by
  simp [List.getD_eq_getElem?_getD, List.getElem?_take_of_lt hj]

/-- The next word reads 16, 15, 7 and 2 positions back, so a prefix of 16 or more words can be read in the whole list. -/
theorem nextScheduleWord_take {W : List Word} {i : Nat} (h16 : 16 ≤ i) (hi : i ≤ W.length) :
    nextScheduleWord (W.take i) =
      W.getD (i - 16) 0 + smallSigma0 (W.getD (i - 15) 0) + W.getD (i - 7) 0 + smallSigma1 (W.getD (i - 2) 0) := by
  have hback {k : Nat} (hk : 0 < k) : (W.take i).getD (i - k) 0 = W.getD (i - k) 0 := getD_take_of_lt (by omega)
  rw [nextScheduleWord, List.length_take_of_le hi, hback (by decide), hback (by decide), hback (by decide),
    hback (by decide)]

/-! ### The schedule of a block -/

@[simp] theorem length_schedule (block : List Byte) : (schedule block).length = 64 := by simp [schedule]

theorem getD_schedule_of_lt_16 (block : List Byte) {i : Nat} (hi : i < 16) :
    (schedule block).getD i 0 = (blockLoad block).getD i 0 :=
  getD_extendSchedule_of_lt 48 (by simpa using hi)

theorem getD_schedule_of_ge_16 (block : List Byte) {i : Nat} (h16 : 16 ≤ i) (hi : i < 64) :
    (schedule block).getD i 0 =
      (schedule block).getD (i - 16) 0 + smallSigma0 ((schedule block).getD (i - 15) 0)
        + (schedule block).getD (i - 7) 0 + smallSigma1 ((schedule block).getD (i - 2) 0) := by
  have hnext : (schedule block).getD i 0 = nextScheduleWord ((schedule block).take i) :=
    getD_extendSchedule_of_ge (by simpa using h16) (by simpa using hi)
  rw [hnext, nextScheduleWord_take h16 (by simpa using hi.le)]

/-! ### The statement -/

/-- Settles O38: the first 16 words are the block load's, the 48 added behind them the expansion, where `s0` and `s1` (R409, R410)
stand written out. -/
theorem scheduleObeysTheExpansion : Obligations.ScheduleObeysTheExpansion := fun block =>
  ⟨length_schedule block,
    fun _ hi => (getD_schedule_of_lt_16 block hi).trans (getD_blockLoad block hi),
    fun _ h16 hi => getD_schedule_of_ge_16 block h16 hi⟩

end Sys2Proof.Schedule
end

section
/-! PROOFS. The commands (R600 to R610 of spec/44_commands.md): what accepting a word does in a launch state, what AppendByte does
over a list of bytes, what a sequence of PUSH commands does, and the statements that follow. -/

namespace Sys2Proof.Commands

open Sys2Proof.Machine Sys2Proof.Decoding

/-! ### Acceptance in a launch state (R600) -/

theorem stopReason_of_launchState {s : State} (h : launchState s = true) : stopReason s = none := by
  obtain ⟨hidle, hsafe⟩ := (launchState_iff s).mp h
  obtain ⟨-, htotal⟩ := (safeState_idle_iff hidle).mp hsafe
  have hstuck : microStuck s = false := by simp only [microStuck, hidle]
  have hbroken : lengthBroken s = false := by
    cases hdone : s.done with
    | true => simp [lengthBroken, hdone]
    | false => simpa [lengthBroken, hdone] using fun _ => htotal
  simp [stopReason, hbroken, hstuck]

/-- R600: BUSY is 0 in a launch state, so the word presented is the word accepted. -/
theorem step_present_of_launchState {s : State} {cw : CommandWord} {rest : List HostMove} (h : launchState s = true)
    (hin : s.inputs = .present cw :: rest) : step s = acceptWord cw { s with inputs := rest } := by
  have hready : busy s = false := by simp [busy, ((launchState_iff s).mp h).1]
  simp only [step, hostStep, hin, unlessStopped_of_none _ (stopReason_of_launchState h), hready, Bool.false_eq_true,
    if_false]

/-- R703: a command that its acceptance step completes has the same effect at both levels. -/
theorem acceptWord_of_exec_eq_acceptCommand {cw : CommandWord} {i : Instr} {s : State} (hdecode : decode cw = .ok i)
    (hcomplete : exec i s = .next (acceptCommand i s)) : acceptWord cw s = .next (acceptCommand i s) := by
  rw [acceptWord, hdecode]
  cases s.level with
  | transaction => exact hcomplete
  | micro => rfl

/-- The step of a launch state that accepts such a command. -/
theorem step_of_exec_eq_acceptCommand {s : State} {cw : CommandWord} {rest : List HostMove} {i : Instr}
    (hcomplete : ∀ u, exec i u = .next (acceptCommand i u)) (h : launchState s = true)
    (hin : s.inputs = .present cw :: rest) (hdecode : decode cw = .ok i) :
    step s = .next (acceptCommand i { s with inputs := rest }) :=
  (step_present_of_launchState h hin).trans (acceptWord_of_exec_eq_acceptCommand hdecode (hcomplete _))

/-! ### AppendByte over a list of bytes (R602, R605) -/

theorem appendByte_of_ne {s : State} (h : s.numPending ≠ 63) (b : Byte) :
    appendByte s b = { storeByte b s with numPending := s.numPending + 1 } :=
  ((appendByte_cases s b).resolve_right fun hfull => h hfull.1).2

theorem appendByte_of_eq {s : State} (h : s.numPending = 63) (b : Byte) :
    appendByte s b =
      { compressBlock (memRead (memWrite s.pending 63 b) 0 64) (storeByte b s) with numPending := 0 } :=
  ((appendByte_cases s b).resolve_left fun hopen => hopen.1 h).2

/-- R102, R104: each byte is counted, as long as the block counter does not wrap. -/
theorem totalBytes_appendBytes (bytes : List Byte) (s : State) (h : totalBytes s + bytes.length < 2 ^ 64) :
    totalBytes (appendBytes bytes s) = totalBytes s + bytes.length := by
  induction bytes generalizing s with
  | nil => rfl
  | cons b rest ih =>
    rw [List.length_cons] at h ⊢
    have hone : totalBytes (appendByte s b) = totalBytes s + 1 :=
      appendByte_totalBytes s b (by unfold totalBytes at h; omega)
    rw [appendBytes_cons, ih _ (by omega), hone]
    omega

/-- AppendByte neither reads nor writes the hidden registers `mode` and `inq` (R602). -/
theorem appendBytes_mode_inq (bytes : List Byte) (s : State) (m : Mode) (q : List Byte) :
    appendBytes bytes { s with mode := m, inq := q } = { appendBytes bytes s with mode := m, inq := q } := by
  induction bytes generalizing s with
  | nil => rfl
  | cons b rest ih =>
    have hone : appendByte { s with mode := m, inq := q } b = { appendByte s b with mode := m, inq := q } := by
      unfold appendByte
      dsimp only
      split <;> rfl
    rw [appendBytes_cons, hone, ih, appendBytes_cons]

/-! ### Sequences of PUSH commands (R605, R608) -/

theorem pushEffect_pushEffect (bs cs : List Byte) (s : State) :
    pushEffect cs (pushEffect bs s) = pushEffect (bs ++ cs) s := by
  simp only [pushEffect, appendBytes_mode_inq, appendBytes_append]

theorem totalBytes_pushEffect (bytes : List Byte) (s : State) (h : totalBytes s + bytes.length ≤ Config.maxMessageBytes) :
    totalBytes (pushEffect bytes s) = totalBytes s + bytes.length :=
  totalBytes_appendBytes bytes s (by unfold Config.maxMessageBytes at h; omega)

/-- R601, R605: a PUSH in the ACCEPT phase with room for its bytes appends them. -/
theorem exec_push_of_room {bytes : List Byte} {s : State} (hdone : s.done = false)
    (hroom : totalBytes s + bytes.length ≤ Config.maxMessageBytes) :
    exec (.push bytes) s = .next (pushEffect bytes s) := by
  have hpass : checkPush bytes.length s = none := by
    simp [checkPush, hdone, Nat.not_lt.mpr hroom]
  rw [exec_push, hpass]

theorem runInstrs_cons {i : Instr} {s t : State} (is : List Instr) (h : exec i s = .next t) :
    runInstrs (i :: is) s = runInstrs is t := by
  rw [runInstrs, h]

theorem carriedBytes_cons_push (bytes : List Byte) (is : List Instr) :
    carriedBytes (.push bytes :: is) = bytes ++ carriedBytes is := rfl

/-- R302: a PUSH with an encoding carries a byte at least. -/
theorem isPush_iff (i : Instr) :
    isPush i = true ↔ ∃ bytes, i = .push bytes ∧ 1 ≤ bytes.length ∧ bytes.length ≤ 4 := by
  cases i <;> simp [isPush, Instr.wf]

/-- PUSH commands after a PUSH, as one PUSH of all the bytes. -/
theorem runInstrs_pushEffect {is : List Instr} (his : is.all isPush = true) (bytes : List Byte) {s : State}
    (hdone : s.done = false) (hroom : totalBytes s + (bytes ++ carriedBytes is).length ≤ Config.maxMessageBytes) :
    runInstrs is (pushEffect bytes s) = .next (pushEffect (bytes ++ carriedBytes is) s) := by
  induction is generalizing bytes with
  | nil => simp [runInstrs, carriedBytes]
  | cons i is ih =>
    obtain ⟨hi, hall⟩ : isPush i = true ∧ is.all isPush = true := by simpa using his
    obtain ⟨more, rfl, -, -⟩ := (isPush_iff i).mp hi
    rw [carriedBytes_cons_push, ← List.append_assoc] at hroom ⊢
    have hfits : totalBytes s + bytes.length + more.length ≤ Config.maxMessageBytes := by
      simp only [List.length_append] at hroom
      omega
    have hexec : exec (.push more) (pushEffect bytes s) = .next (pushEffect (bytes ++ more) s) := by
      rw [← pushEffect_pushEffect]
      refine exec_push_of_room (by simpa using hdone) ?_
      rwa [totalBytes_pushEffect bytes s (by omega)]
    rw [runInstrs_cons is hexec]
    exact ih hall (bytes ++ more) hroom

/-- R608: what a sequence of PUSH commands leaves, in terms of the bytes it carries. -/
theorem runInstrs_pushes {is : List Instr} (hne : is ≠ []) (his : is.all isPush = true) {s : State}
    (hdone : s.done = false) (hroom : totalBytes s + (carriedBytes is).length ≤ Config.maxMessageBytes) :
    runInstrs is s = .next (pushEffect (carriedBytes is) s) := by
  obtain ⟨i, more, rfl⟩ := List.exists_cons_of_ne_nil hne
  obtain ⟨hi, hall⟩ : isPush i = true ∧ more.all isPush = true := by simpa using his
  obtain ⟨bytes, rfl, -, -⟩ := (isPush_iff i).mp hi
  rw [carriedBytes_cons_push] at hroom ⊢
  have hfits : totalBytes s + bytes.length ≤ Config.maxMessageBytes := by
    rw [List.length_append] at hroom
    omega
  rw [runInstrs_cons more (exec_push_of_room hdone hfits)]
  exact runInstrs_pushEffect hall bytes hdone hroom

/-- R302: no bytes are carried by no command only. -/
theorem carriedBytes_eq_nil_iff {is : List Instr} (his : is.all isPush = true) : carriedBytes is = [] ↔ is = [] := by
  cases is with
  | nil => simp [carriedBytes]
  | cons i is =>
    obtain ⟨hi, -⟩ : isPush i = true ∧ is.all isPush = true := by simpa using his
    obtain ⟨bytes, rfl, hlen, -⟩ := (isPush_iff i).mp hi
    simp [carriedBytes_cons_push, List.ne_nil_of_length_pos hlen]

/-! ### UPDATE (R309, R610) -/

theorem all_isPush_update (bytes : List Byte) : (update bytes).all isPush = true := by
  fun_induction update bytes with
  | case1 => rfl
  | case2 b0 b1 b2 b3 rest ih => simpa [isPush, Instr.wf] using ih
  | case3 rest hne hshort =>
    match rest, hne, hshort with
    | [], hne, _ => exact absurd rfl hne
    | [_], _, _ | [_, _], _, _ | [_, _, _], _, _ => rfl
    | b0 :: b1 :: b2 :: b3 :: rest, _, hshort => exact absurd rfl (hshort b0 b1 b2 b3 rest)

@[simp] theorem carriedBytes_update (bytes : List Byte) : carriedBytes (update bytes) = bytes := by
  fun_induction update bytes with
  | case1 => rfl
  | case2 b0 b1 b2 b3 rest ih => rw [carriedBytes_cons_push, ih]; rfl
  | case3 rest hne hshort => exact List.append_nil rest

/-- R610: UPDATE of some bytes, as one PUSH of them all. -/
theorem runInstrs_update {bytes : List Byte} (hne : bytes ≠ []) {s : State} (hdone : s.done = false)
    (hroom : totalBytes s + bytes.length ≤ Config.maxMessageBytes) :
    runInstrs (update bytes) s = .next (pushEffect bytes s) := by
  have hpush := all_isPush_update bytes
  have hcommands : update bytes ≠ [] := by rwa [ne_eq, ← carriedBytes_eq_nil_iff hpush, carriedBytes_update]
  have hrun := runInstrs_pushes hcommands hpush hdone (by rwa [carriedBytes_update])
  rwa [carriedBytes_update] at hrun

/-! ### The three-step update (R609) -/

/-- What R609 compares: the chaining value, the counters and the valid pending bytes. -/
structure SameContext (s t : State) : Prop where
  state : s.state = t.state
  completedBlocks : s.completedBlocks = t.completedBlocks
  numPending : s.numPending = t.numPending
  validBytes : validBytes s = validBytes t

theorem SameContext.trans {s t u : State} (hst : SameContext s t) (htu : SameContext t u) : SameContext s u :=
  ⟨hst.state.trans htu.state, hst.completedBlocks.trans htu.completedBlocks, hst.numPending.trans htu.numPending,
    hst.validBytes.trans htu.validBytes⟩

theorem SameContext.symm {s t : State} (h : SameContext s t) : SameContext t s :=
  ⟨h.state.symm, h.completedBlocks.symm, h.numPending.symm, h.validBytes.symm⟩

/-- The byte written behind the bytes there are is read behind them. -/
theorem memRead_memWrite_succ (m : Memory) (n : Nat) (b : Byte) :
    memRead (memWrite m n b) 0 (n + 1) = memRead m 0 n ++ [b] := by
  have hbelow : memRead (memWrite m n b) 0 n = memRead m 0 n := by
    refine List.map_congr_left fun k hk => pendingByte_memWrite_other m b ?_
    have hlt := List.mem_range.mp hk
    omega
  rw [← hbelow]
  simp [memRead, List.range_succ]

theorem memRead_fillPending (bytes : List Byte) (n : Nat) (m : Memory) :
    memRead (fillPending bytes n m) 0 (n + bytes.length) = memRead m 0 n ++ bytes := by
  induction bytes generalizing n m with
  | nil => simp [fillPending]
  | cons b rest ih =>
    have hlen : n + (b :: rest).length = n + 1 + rest.length := by
      rw [List.length_cons]
      omega
    rw [fillPending, hlen, ih, memRead_memWrite_succ, List.append_assoc]
    rfl

/-- A block compressed, and nothing pending behind it. -/
def compressed (block : List Byte) (s : State) : State := { compressBlock block s with numPending := 0 }

theorem validBytes_of_numPending_eq_zero {s : State} (h : s.numPending = 0) : validBytes s = [] := by
  rw [validBytes, h]
  rfl

theorem sameContext_compressed {s t : State} (h : SameContext s t) (block : List Byte) :
    SameContext (compressed block s) (compressed block t) where
  state := congrArg (compressValue · block) h.state
  completedBlocks := congrArg (· + 1) h.completedBlocks
  numPending := rfl
  validBytes := (validBytes_of_numPending_eq_zero rfl).trans (validBytes_of_numPending_eq_zero rfl).symm

/-- R602: a byte that completes no block is one valid byte more. -/
theorem validBytes_appendByte {s : State} (h : s.numPending ≠ 63) (b : Byte) :
    validBytes (appendByte s b) = validBytes s ++ [b] := by
  rw [appendByte_of_ne h, validBytes, numPending_succ h]
  exact memRead_memWrite_succ s.pending s.numPending.toNat b

/-- R602: a byte that completes a block compresses the valid bytes and itself. -/
theorem sameContext_appendByte_of_eq {s : State} (h : s.numPending = 63) (b : Byte) :
    SameContext (appendByte s b) (compressed (validBytes s ++ [b]) s) := by
  have hblock : memRead (memWrite s.pending 63 b) 0 64 = validBytes s ++ [b] := by
    rw [validBytes, h]
    exact memRead_memWrite_succ s.pending 63 b
  rw [appendByte_of_eq h, hblock]
  exact ⟨rfl, rfl, rfl, rfl⟩

/-- AppendByte looks at nothing but what R609 compares. -/
theorem sameContext_appendByte {s t : State} (h : SameContext s t) (b : Byte) :
    SameContext (appendByte s b) (appendByte t b) := by
  by_cases h63 : s.numPending = 63
  case pos =>
    have ht := sameContext_appendByte_of_eq (h.numPending ▸ h63) b
    rw [← h.validBytes] at ht
    exact (sameContext_appendByte_of_eq h63 b).trans ((sameContext_compressed h _).trans ht.symm)
  case neg =>
    have ht63 : t.numPending ≠ 63 := h.numPending ▸ h63
    refine ⟨?state, ?completedBlocks, ?numPending, ?validBytes⟩
    case validBytes => rw [validBytes_appendByte h63, validBytes_appendByte ht63, h.validBytes]
    all_goals rw [appendByte_of_ne h63, appendByte_of_ne ht63]
    case state => exact h.state
    case completedBlocks => exact h.completedBlocks
    case numPending => exact congrArg (· + 1) h.numPending

theorem sameContext_appendBytes {s t : State} (h : SameContext s t) (bytes : List Byte) :
    SameContext (appendBytes bytes s) (appendBytes bytes t) := by
  induction bytes generalizing s t with
  | nil => exact h
  | cons b rest ih => exact ih (sameContext_appendByte h b)

/-- Bytes that complete no block are buffered (R602, R609). -/
theorem appendBytes_eq_bufferRest (bytes : List Byte) {s : State} (h : s.numPending.toNat + bytes.length < 64) :
    appendBytes bytes s = bufferRest bytes s := by
  induction bytes generalizing s with
  | nil => simp [appendBytes_nil, bufferRest, fillPending]
  | cons b rest ih =>
    rw [List.length_cons] at h
    have hne : s.numPending ≠ 63 := by
      intro h63
      simp only [h63, BitVec.reduceToNat] at h
      omega
    have hsucc : (appendByte s b).numPending.toNat = s.numPending.toNat + 1 := by
      rw [appendByte_of_ne hne]
      exact numPending_succ hne
    have hcount : s.numPending + 1 + BitVec.ofNat 6 rest.length = s.numPending + BitVec.ofNat 6 (b :: rest).length := by
      rw [List.length_cons, BitVec.ofNat_add, BitVec.add_assoc, BitVec.add_comm (1 : BitVec 6)]
      rfl
    rw [appendBytes_cons, ih (by omega), bufferRest, hsucc, appendByte_of_ne hne, hcount]
    rfl

theorem validBytes_bufferRest {bytes : List Byte} {s : State} (h : s.numPending.toNat + bytes.length < 64) :
    validBytes (bufferRest bytes s) = validBytes s ++ bytes := by
  have hcount : (bufferRest bytes s).numPending.toNat = s.numPending.toNat + bytes.length := by
    simp only [bufferRest, BitVec.toNat_add, BitVec.toNat_ofNat]
    omega
  rw [validBytes, hcount]
  exact memRead_fillPending bytes s.numPending.toNat s.pending

/-- Bytes that complete a block, with none left over: the block is the valid bytes and they (R602). -/
theorem sameContext_appendBytes_of_completes {bytes : List Byte} {s : State} (h : s.numPending.toNat + bytes.length = 64) :
    SameContext (appendBytes bytes s) (compressed (validBytes s ++ bytes) s) := by
  obtain rfl | ⟨first, last, rfl⟩ := List.eq_nil_or_concat bytes
  · have hpending := s.numPending.isLt
    rw [List.length_nil] at h
    omega
  · have hfit : s.numPending.toNat + first.length = 63 := by
      rw [List.length_concat] at h
      omega
    have h63 : (bufferRest first s).numPending = 63 := by
      refine BitVec.eq_of_toNat_eq ?_
      simp [bufferRest, hfit]
    rw [List.concat_eq_append, appendBytes_append, appendBytes_eq_bufferRest first (by omega), ← List.append_assoc,
      ← validBytes_bufferRest (by omega)]
    exact (sameContext_appendByte_of_eq h63 last).trans ⟨rfl, rfl, rfl, rfl⟩

@[simp] theorem compressDirect_numPending (n : Nat) (bytes : List Byte) (s : State) :
    (compressDirect n bytes s).numPending = s.numPending := by
  induction n generalizing bytes s with
  | zero => rfl
  | succ n ih => exact ih _ _

/-- R609: with nothing pending, whole blocks compressed straight from the input are whole blocks appended. -/
theorem sameContext_compressDirect {n : Nat} {bytes : List Byte} {s : State} (hempty : s.numPending = 0)
    (hlen : 64 * n ≤ bytes.length) : SameContext (appendBytes (bytes.take (64 * n)) s) (compressDirect n bytes s) := by
  induction n generalizing bytes s with
  | zero => exact ⟨rfl, rfl, rfl, rfl⟩
  | succ n ih =>
    have hsplit : bytes.take (64 * (n + 1)) = bytes.take 64 ++ (bytes.drop 64).take (64 * n) := by
      rw [← List.take_add, Nat.mul_succ, Nat.add_comm]
    have hblock : (bytes.take 64).length = 64 := by
      rw [List.length_take]
      omega
    have hfirst : SameContext (appendBytes (bytes.take 64) s) (compressBlock (bytes.take 64) s) := by
      have hfull : s.numPending.toNat + (bytes.take 64).length = 64 := by rw [hempty, hblock]; rfl
      have happend := sameContext_appendBytes_of_completes hfull
      rw [validBytes_of_numPending_eq_zero hempty, List.nil_append, compressed, ← hempty] at happend
      exact happend
    rw [hsplit, appendBytes_append]
    refine (sameContext_appendBytes hfirst _).trans (ih (s := compressBlock (bytes.take 64) s) hempty ?_)
    rw [List.length_drop]
    omega

/-- The first step: bytes that fill the buffer, which is then compressed (R609). -/
theorem sameContext_fillPending {bytes : List Byte} {s : State} (h : s.numPending.toNat + bytes.length = 64) :
    SameContext (appendBytes bytes s)
      (compressed (memRead (fillPending bytes s.numPending.toNat s.pending) 0 64)
        { s with pending := fillPending bytes s.numPending.toNat s.pending }) := by
  have hblock : memRead (fillPending bytes s.numPending.toNat s.pending) 0 64 = validBytes s ++ bytes := by
    rw [← h]
    exact memRead_fillPending bytes s.numPending.toNat s.pending
  rw [hblock]
  exact (sameContext_appendBytes_of_completes h).trans ⟨rfl, rfl, rfl, rfl⟩

/-- R609: the bytes that complete the pending block, the whole blocks and the remainder, each appended. -/
theorem sameContext_threeStepUpdate (bytes : List Byte) (s : State) :
    SameContext (appendBytes bytes s) (threeStepUpdate bytes s) := by
  have hpending := s.numPending.isLt
  unfold threeStepUpdate
  dsimp only
  split
  case isTrue hshort =>
    rw [appendBytes_eq_bufferRest bytes (by omega)]
    exact ⟨rfl, rfl, rfl, rfl⟩
  case isFalse hlong =>
    set room := 64 - s.numPending.toNat
    set tail := bytes.drop room
    set blocks := tail.length / 64
    have hfill : s.numPending.toNat + (bytes.take room).length = 64 := by
      rw [List.length_take]
      omega
    have hrest : (tail.drop (64 * blocks)).length < 64 := by
      rw [List.length_drop]
      omega
    have hsplit : appendBytes bytes s =
        appendBytes (tail.drop (64 * blocks)) (appendBytes (tail.take (64 * blocks)) (appendBytes (bytes.take room) s)) := by
      rw [← appendBytes_append, ← appendBytes_append, List.take_append_drop, List.take_append_drop]
    rw [hsplit, ← appendBytes_eq_bufferRest]
    · exact sameContext_appendBytes ((sameContext_appendBytes (sameContext_fillPending hfill) _).trans
        (sameContext_compressDirect rfl (Nat.mul_div_le _ _))) _
    · rw [compressDirect_numPending]
      simpa using hrest

/-! ### The statements -/

/-- Settles O16: NOP answers the state it is given, at both levels. -/
theorem nopHasNoEffect : Obligations.NopHasNoEffect :=
  ⟨exec_nop, fun _ _ _ hlaunch hin hop => step_of_exec_eq_acceptCommand exec_nop hlaunch hin (decode_of_op_nop hop)⟩

/-- Settles O17: INIT completes at its acceptance, with the writes of `initContext`. -/
theorem initGivesFreshContext : Obligations.InitGivesFreshContext :=
  ⟨exec_init, fun _ _ _ hlaunch hin hop => step_of_exec_eq_acceptCommand exec_init hlaunch hin (decode_of_op_init hop)⟩

/-- Settles O18: CLRERR completes at its acceptance, with the write of `clearError`. -/
theorem clrerrClearsErrcodeOnly : Obligations.ClrerrClearsErrcodeOnly :=
  ⟨exec_clrerr, fun _ _ _ hlaunch hin hop =>
    step_of_exec_eq_acceptCommand exec_clrerr hlaunch hin (decode_of_op_clrerr hop)⟩

/-- Settles O29: both sequences are one PUSH of the bytes they carry, or both are empty. -/
theorem streamingEquivalence : Obligations.StreamingEquivalence := by
  intro is js s his hjs hbytes hdone hroom
  by_cases hnil : is = []
  case pos =>
    have hjnil : js = [] := by rwa [← carriedBytes_eq_nil_iff hjs, ← hbytes, carriedBytes_eq_nil_iff his]
    rw [hnil, hjnil]
    exact ⟨s, rfl, rfl, rfl⟩
  case neg =>
    have hjne : js ≠ [] := by rwa [ne_eq, ← carriedBytes_eq_nil_iff hjs, ← hbytes, carriedBytes_eq_nil_iff his]
    refine ⟨_, runInstrs_pushes hnil his hdone hroom, ?_, pushEffect_errcode _ s⟩
    rw [hbytes] at hroom ⊢
    exact runInstrs_pushes hjne hjs hdone hroom

/-- Settles O30: the two states agree in what R609 compares, step by step. -/
theorem threeStepUpdateIsAppending : Obligations.ThreeStepUpdateIsAppending := fun bytes s => by
  obtain ⟨hstate, hblocks, hpending, hvalid⟩ := sameContext_threeStepUpdate bytes s
  exact ⟨hstate, hblocks, hpending, hvalid⟩

/-- Settles O31: UPDATE has the effect of one PUSH of its bytes; `num_pending < 64` makes the count of whole blocks exact. -/
theorem updateAccountsForEveryByte : Obligations.UpdateAccountsForEveryByte := by
  intro bytes s hdone hroom
  refine ⟨all_isPush_update bytes, carriedBytes_update bytes, ?_⟩
  obtain ⟨t, hrun, herr, htotal, hnone⟩ : ∃ t, runInstrs (update bytes) s = .next t ∧ t.errcode = s.errcode ∧
      totalBytes t = totalBytes s + bytes.length ∧ (bytes = [] → t = s) := by
    by_cases hnil : bytes = []
    case pos =>
      subst hnil
      exact ⟨s, rfl, rfl, rfl, fun _ => rfl⟩
    case neg =>
      exact ⟨_, runInstrs_update hnil hdone hroom, pushEffect_errcode _ s, totalBytes_pushEffect bytes s hroom,
        fun h => absurd h hnil⟩
  refine ⟨t, hrun, herr, htotal, hnone, fun hempty hwhole => ?_⟩
  have hlt := t.numPending.isLt
  rw [hempty, totalBytes] at htotal
  have hzero : t.numPending.toNat = 0 := by omega
  exact ⟨BitVec.eq_of_toNat_eq hzero, by omega⟩

end Sys2Proof.Commands
end

section
/-! PROOFS. Padding and finalization (R650 to R656 of spec/45_padding_finish.md): where AppendByte stores a list of bytes, how long
the padding is, what FINISH does in the ACCEPT phase, and the statements that follow. -/

namespace Sys2Proof.Padding

open Sys2Proof.Machine Sys2Proof.Commands

/-! ### Where AppendByte stores its bytes (R201, R602) -/

/-- R104: AppendByte over a list advances `num_pending` by its length, modulo 64. -/
theorem appendBytes_numPending (bytes : List Byte) (s : State) :
    (appendBytes bytes s).numPending.toNat = (s.numPending.toNat + bytes.length) % 64 := by
  induction bytes generalizing s with
  | nil => exact (Nat.mod_eq_of_lt s.numPending.isLt).symm
  | cons b rest ih =>
    rw [appendBytes_cons, ih, appendByte_numPending, List.length_cons]
    omega

/-- The address of byte `k` behind the first byte is that of byte `k + 1`. -/
theorem appendByte_address (s : State) (b : Byte) (k : Nat) :
    ((appendByte s b).numPending.toNat + k) % 64 = (s.numPending.toNat + (k + 1)) % 64 := by
  rw [appendByte_numPending]
  omega

/-- An address that no byte is stored to keeps what it holds. -/
theorem memLookup_appendBytes_other {bytes : List Byte} {s : State} {a : Nat}
    (h : ∀ k, k < bytes.length → a ≠ (s.numPending.toNat + k) % 64) :
    memLookup (appendBytes bytes s).pending a = memLookup s.pending a := by
  induction bytes generalizing s with
  | nil => rfl
  | cons b rest ih =>
    have hfirst : a ≠ s.numPending.toNat := by
      simpa [Nat.mod_eq_of_lt s.numPending.isLt] using h 0 (Nat.succ_pos _)
    have hrest : ∀ k, k < rest.length → a ≠ ((appendByte s b).numPending.toNat + k) % 64 := fun k hk => by
      rw [appendByte_address]
      exact h (k + 1) (Nat.succ_lt_succ hk)
    rw [appendBytes_cons, ih hrest, appendByte_pending, memLookup_memWrite_other _ b hfirst]

/-- Byte `k` stands at address `(num_pending + k) mod 64` if it is one of the last 64, which no later byte overwrites. -/
theorem memLookup_appendBytes {bytes : List Byte} {s : State} {k : Nat} (hk : k < bytes.length)
    (hlast : bytes.length ≤ k + 64) :
    memLookup (appendBytes bytes s).pending ((s.numPending.toNat + k) % 64) = bytes[k]? := by
  induction bytes generalizing s k with
  | nil => exact absurd hk (Nat.not_lt_zero k)
  | cons b rest ih =>
    rw [List.length_cons] at hk hlast
    rw [appendBytes_cons]
    cases k with
    | zero =>
      have hkept : ∀ j, j < rest.length →
          (s.numPending.toNat + 0) % 64 ≠ ((appendByte s b).numPending.toNat + j) % 64 := fun j hj => by
        rw [appendByte_address]
        omega
      rw [memLookup_appendBytes_other hkept, appendByte_pending, Nat.add_zero, Nat.mod_eq_of_lt s.numPending.isLt,
        memLookup_memWrite_same, List.getElem?_cons_zero]
    | succ k =>
      rw [← appendByte_address s b, ih (by omega) (by omega), List.getElem?_cons_succ]

/-! ### The length of the padding (R651) -/

/-- R651: the `0x80` byte and the zero bytes leave room for the eight length bytes. -/
theorem add_zeroCount_mod (N : Nat) : (N + 1 + zeroCount N) % 64 = 56 := by
  unfold zeroCount
  omega

/-- R651: message and padding are whole blocks. -/
theorem add_length_paddingBytes_mod (N : Nat) (L : BitVec 64) : (N + (paddingBytes N L).length) % 64 = 0 := by
  have hzeros := add_zeroCount_mod N
  rw [paddingBytes_length]
  omega

/-- R651: the length of the padding, by how much of the last block the message fills. -/
theorem length_paddingBytes_eq_ite (N : Nat) (L : BitVec 64) :
    (paddingBytes N L).length = if N % 64 ≤ 55 then 64 - N % 64 else 128 - N % 64 := by
  rw [paddingBytes_length, zeroCount]
  split <;> omega

/-- R655: how many blocks the padding adds to those the message has filled. -/
theorem add_length_paddingBytes_div (N : Nat) (L : BitVec 64) :
    (N + (paddingBytes N L).length) / 64 = N / 64 + finalBlocks N := by
  rw [length_paddingBytes_eq_ite, finalBlocks]
  split <;> split <;> omega

/-! ### What FINISH does in the ACCEPT phase (R606) -/

/-- R601, R606: the check of FINISH passes in the ACCEPT phase. -/
theorem exec_finish_of_not_done {s : State} (h : s.done = false) : exec .finish s = .next (finalize s) := by
  have hpass : checkFinish s = none := by simp [checkFinish, h]
  rw [exec_finish, hpass]

/-- R650: the latched length is that of the message in bits, since it fits in 64 bits. -/
theorem messageBits_toNat {s : State} (h : totalBytes s ≤ Config.maxMessageBytes) :
    (messageBits s).toNat = totalBytes s * 8 := by
  unfold Config.maxMessageBytes at h
  rw [messageBits, BitVec.toNat_ofNat]
  omega

theorem totalBytes_div (s : State) : totalBytes s / 64 = s.completedBlocks.toNat := by
  have hpending := s.numPending.isLt
  unfold totalBytes
  omega

theorem totalBytes_mod (s : State) : totalBytes s % 64 = s.numPending.toNat := by
  have hpending := s.numPending.isLt
  unfold totalBytes
  omega

theorem finalize_pending (s : State) :
    (finalize s).pending = (appendBytes (paddingBytes (totalBytes s) (messageBits s)) s).pending := rfl

/-- R654: after the padding no byte is pending. -/
theorem appendBytes_paddingBytes_numPending (s : State) :
    (appendBytes (paddingBytes (totalBytes s) (messageBits s)) s).numPending = 0 := by
  refine BitVec.eq_of_toNat_eq ?_
  rw [appendBytes_numPending, ← totalBytes_mod, Nat.mod_add_mod, add_length_paddingBytes_mod]
  rfl

/-- R655: the blocks counted after FINISH are those of message and padding. -/
theorem finalize_completedBlocks {s : State} (h : totalBytes s ≤ Config.maxMessageBytes) :
    (finalize s).completedBlocks.toNat =
      (totalBytes s + (paddingBytes (totalBytes s) (messageBits s)).length) / 64 := by
  have hzeros := zeroCount_lt (totalBytes s)
  have hfit : totalBytes s + (paddingBytes (totalBytes s) (messageBits s)).length < 2 ^ 64 := by
    unfold Config.maxMessageBytes at h
    rw [paddingBytes_length]
    omega
  rw [← totalBytes_appendBytes _ s hfit, totalBytes_div]
  rfl

/-- R656, R657: the digest is the chaining value, and the frame of FINISH: every register not named is unchanged. -/
theorem finalize_frame (s : State) :
    finalize s = { s with
      state := (finalize s).state, completedBlocks := (finalize s).completedBlocks, pending := (finalize s).pending
      numPending := 0, done := true, digest := (finalize s).state, mode := (finalize s).mode, pad := (finalize s).pad
      L := messageBits s, w := (finalize s).w, working := (finalize s).working, t := (finalize s).t } := by
  simp [finalize, captureDigest, appendBytes_paddingBytes_numPending]

/-! ### The statements -/

/-- Settles O39: the number of zero bytes is `zeroCount N`, and the rest is its arithmetic modulo 64. -/
theorem paddingFillsTheLastBlock : Obligations.PaddingFillsTheLastBlock := fun N L =>
  ⟨zeroCount N, zeroCount_lt N, rfl, paddingBytes_length N L, add_zeroCount_mod N, add_length_paddingBytes_mod N L,
    length_paddingBytes_eq_ite N L⟩

/-- Settles O23: FINISH appends the padding through AppendByte, so its addresses, its count and its frame are AppendByte's. -/
theorem finishPadsAndCaptures : Obligations.FinishPadsAndCaptures := by
  intro s hdone hlimit
  refine ⟨finalize s, exec_finish_of_not_done hdone, finalize_frame s, messageBits_toNat hlimit, ?blocksAdded,
    finalize_completedBlocks hlimit, fun k hk hlast => ?stored, fun a ha => ?kept⟩
  case blocksAdded =>
    rw [finalize_completedBlocks hlimit, add_length_paddingBytes_div, totalBytes_div, finalBlocks]
  case stored =>
    rw [finalize_pending]
    exact memLookup_appendBytes hk hlast
  case kept =>
    rw [finalize_pending]
    exact memLookup_appendBytes_other ha

end Sys2Proof.Padding
end

section
/-! PROOFS. The iterative datapath (R706 to R708 of spec/46_iterative_datapath.md): the 16-word window serves as the schedule, one
round keeps the state of a compression in progress, and the statement that follows. -/

namespace Sys2Proof.Datapath

open Sys2Proof.Machine Sys2Proof.Schedule

/-! ### The schedule window (R706, R707) -/

theorem getD_windowOf (W : List Word) {i : Nat} (hi : i < 16) : (windowOf W).toList.getD i 0 = W.getD i 0 := by
  simp [windowOf, List.getD_eq_getElem?_getD, hi]

theorem getD_toList_set (w : Vector Word 16) {i : Nat} (hi : i < 16) (x : Word) (j : Nat) :
    (w.set i x hi).toList.getD j 0 = if i = j then x else w.toList.getD j 0 := by
  rw [Vector.toList_set, List.getD_eq_getElem?_getD, List.getElem?_set, Vector.length_toList, if_pos hi,
    List.getD_eq_getElem?_getD]
  split <;> rfl

/-- The window law of R707 before round `k`: `W[k-16..k-1]` (`W[0..15]` for `k < 16`), with `W[i]` at `w[i mod 16]`. -/
def HoldsSchedule (block : List Byte) (k : Nat) (w : Vector Word 16) : Prop :=
  ∀ i, i < 64 → k ≤ i + 16 → i < max k 16 → w.toList.getD (i % 16) 0 = (schedule block).getD i 0

theorem holdsSchedule_windowOf_blockLoad (block : List Byte) : HoldsSchedule block 0 (windowOf (blockLoad block)) := by
  intro i _ _ hi
  rw [Nat.zero_max] at hi
  rw [Nat.mod_eq_of_lt hi, getD_windowOf _ hi, getD_schedule_of_lt_16 block hi]

/-- The word of round `k` is found in the window (`k < 16`) or is the expansion of the words 16, 15, 7 and 2 before it, which are
all in the window. -/
theorem windowWord_eq_schedule {block : List Byte} {k : Nat} {w : Vector Word 16} (hw : HoldsSchedule block k w)
    (hk : k < 64) : windowWord w k = (schedule block).getD k 0 := by
  unfold windowWord
  split
  case isTrue h16 =>
    have hreverse (x y z u : Word) : x + y + z + u = u + z + y + x := by ac_rfl
    have hslot : k % 16 = (k - 16) % 16 := Nat.mod_eq_sub_mod h16
    rw [hslot, hw (k - 2) (by omega) (by omega) (by omega), hw (k - 7) (by omega) (by omega) (by omega),
      hw (k - 15) (by omega) (by omega) (by omega), hw (k - 16) (by omega) (by omega) (by omega),
      getD_schedule_of_ge_16 block h16 hk]
    exact hreverse _ _ _ _
  case isFalse h16 => exact hw k hk (by omega) (by omega)

/-- Round `k` puts `W[k]` in the place of `W[k-16]`: no other word of the next window has its slot. -/
theorem holdsSchedule_set {block : List Byte} {k : Nat} {w : Vector Word 16} (hw : HoldsSchedule block k w) :
    HoldsSchedule block (k + 1)
      (w.set (k % 16) ((schedule block).getD k 0) (Nat.mod_lt _ (by decide))) := by
  intro i hi hfrom hto
  rw [getD_toList_set]
  obtain rfl | hne := eq_or_ne i k
  · rw [if_pos rfl]
  · have hslot : k % 16 ≠ i % 16 := by omega
    rw [if_neg hslot]
    exact hw i hi (by omega) (by omega)

/-! ### A compression in progress -/

theorem runRounds_range_succ (W : List Word) (k : Nat) (v : Working) :
    runRounds W (List.range (k + 1)) v =
      round (roundConstant k) (W.getD k 0) (runRounds W (List.range k) v) := by
  rw [runRounds, List.range_succ, List.foldl_append]
  rfl

/-- The engine after LOAD and `k` rounds of the compression of `block` into the chaining value `h`. After round 63 it waits in
FEEDBACK, with the round counter left at 63. -/
structure AfterRounds (h : Vector Word 8) (block : List Byte) (k : Nat) (s : State) : Prop where
  state_eq : s.state = h
  fsm_eq : s.fsm = if k < 64 then .round else .feedback
  t_eq : s.t.toNat = min k 63
  working_eq : s.working = runRounds (schedule block) (List.range k) (workingOf h)
  window : HoldsSchedule block k s.w

theorem loadStep_afterRounds (s : State) : AfterRounds s.state (memRead s.pending 0 64) 0 (loadStep s) where
  state_eq := rfl
  fsm_eq := rfl
  t_eq := rfl
  working_eq := rfl
  window := holdsSchedule_windowOf_blockLoad _

/-- A round keeps the state of the compression, one round further; the last one ends in FEEDBACK. -/
theorem roundStep_afterRounds {h : Vector Word 8} {block : List Byte} {k : Nat} {s : State} (hs : AfterRounds h block k s)
    (hk : k < 64) : AfterRounds h block (k + 1) (roundStep s) := by
  have ht : s.t.toNat = k := by rw [hs.t_eq]; omega
  have hlast : s.t = 63 ↔ k = 63 := by rw [← BitVec.toNat_inj, ht]; rfl
  have hword : windowWord s.w k = (schedule block).getD k 0 := windowWord_eq_schedule hs.window hk
  refine ⟨hs.state_eq, ?fsm, ?counter, ?working, ?window⟩
  case fsm =>
    have hround : s.fsm = .round := by rw [hs.fsm_eq, if_pos hk]
    simp only [roundStep, hlast, hround]
    obtain hk63 | rfl := Nat.lt_or_eq_of_le (Nat.le_of_lt_succ hk)
    · rw [if_neg (by omega), if_pos (by omega)]
    · rfl
  case counter =>
    simp only [roundStep, hlast]
    split
    · omega
    · rw [BitVec.toNat_add, ht]
      change (k + 1) % 64 = _
      omega
  case working =>
    simp only [roundStep, ht, hword, hs.working_eq, runRounds_range_succ]
  case window =>
    simp only [roundStep, ht, hword]
    exact holdsSchedule_set hs.window

theorem feedbackStep_state (s : State) : (feedbackStep s).state = feedback s.state s.working := rfl

/-- After the 64 rounds FEEDBACK leaves the compression function's value. -/
theorem feedbackStep_state_of_afterRounds {h : Vector Word 8} {block : List Byte} {s : State}
    (hs : AfterRounds h block 64 s) : (feedbackStep s).state = compressValue h block := by
  rw [feedbackStep_state, hs.state_eq, hs.working_eq, compressValue, finalWorking]

/-! ### The busy steps of the reference realisation (R702, R711) -/

theorem busySteps_succ (r n : Nat) (s : State) : busySteps r (n + 1) s = busyStep r (busySteps r n s) :=
  busySteps_add r n 1 s

theorem busyStep_load {s : State} (r : Nat) (h : s.fsm = .load) : busyStep r s = loadStep s := by
  simp [busyStep, h]

theorem busyStep_one_round {s : State} (h : s.fsm = .round) : busyStep 1 s = roundStep s := by
  simp [busyStep, h, roundsStep]

theorem busyStep_feedback {s : State} (r : Nat) (h : s.fsm = .feedback) : busyStep r s = feedbackStep s := by
  simp [busyStep, h]

/-- From LOAD, one step loads and each further one performs a round. -/
theorem busySteps_afterRounds {s : State} (hload : s.fsm = .load) {k : Nat} (hk : k ≤ 64) :
    AfterRounds s.state (memRead s.pending 0 64) k (busySteps 1 (k + 1) s) := by
  induction k with
  | zero =>
    rw [busySteps_succ, busySteps, busyStep_load 1 hload]
    exact loadStep_afterRounds s
  | succ k ih =>
    have hprev := ih (by omega)
    have hround : (busySteps 1 (k + 1) s).fsm = .round := by rw [hprev.fsm_eq, if_pos (by omega)]
    rw [busySteps_succ, busyStep_one_round hround]
    exact roundStep_afterRounds hprev (by omega)

/-! ### The statement -/

/-- Settles O40: by induction on the rounds the engine is in the state `AfterRounds` describes, up to round 63, and FEEDBACK
follows. -/
theorem windowComputesTheSchedule : Obligations.WindowComputesTheSchedule := by
  intro s hload block
  have hdone : AfterRounds s.state block 64 (busySteps 1 65 s) := busySteps_afterRounds hload (Nat.le_refl 64)
  refine ⟨fun k hk => ?_, hdone.fsm_eq, hdone.working_eq, ?_⟩
  · have hround := busySteps_afterRounds hload (Nat.le_of_lt hk)
    exact ⟨by rw [hround.fsm_eq, if_pos hk], by rw [hround.t_eq]; omega, hround.working_eq, hround.window⟩
  · rw [busySteps_succ, busyStep_feedback 1 hdone.fsm_eq]
    exact feedbackStep_state_of_afterRounds hdone

end Sys2Proof.Datapath
end

section
/-! PROOFS. The errors of the engine (R800 to R806 of spec/60_exceptions.md): the first check a presented word fails, what accepting
the word does if one fails and if none does, and the statements that follow. -/

namespace Sys2Proof.Exceptions

open Sys2Proof.Machine Sys2Proof.Decoding Sys2Proof.Commands

/-! ### The checks of a command (R601) -/

/-- The check after the opcode check that a command fails, if any. -/
def failedCommandCheck (i : Instr) (s : State) : Option EngineError :=
  match i with
  | .push bytes => checkPush bytes.length s
  | .finish => checkFinish s
  | _ => none

theorem exec_of_failedCommandCheck {i : Instr} {s : State} {e : EngineError} (h : failedCommandCheck i s = some e) :
    exec i s = .next (raiseError e s) := by
  cases i with
  | push bytes => rw [exec_push, show checkPush bytes.length s = some e from h]
  | finish => rw [exec_finish, show checkFinish s = some e from h]
  | nop | init | clrerr => cases h

theorem acceptCommand_of_failedCommandCheck {i : Instr} {s : State} {e : EngineError}
    (h : failedCommandCheck i s = some e) : acceptCommand i s = raiseError e s := by
  cases i with
  | push bytes => rw [acceptCommand, show checkPush bytes.length s = some e from h]
  | finish => rw [acceptCommand, show checkFinish s = some e from h]
  | nop | init | clrerr => cases h

/-- R805: a command that passes its checks leaves `errcode` as it was, CLRERR aside. -/
theorem exec_errcode_of_checks_pass {i : Instr} {s : State} (h : failedCommandCheck i s = none) :
    ∃ t, exec i s = .next t ∧ t.errcode = if opcodeOf i = 0x4 then 0 else s.errcode := by
  cases i with
  | nop => exact ⟨_, exec_nop s, rfl⟩
  | init => exact ⟨_, exec_init s, rfl⟩
  | clrerr => exact ⟨_, exec_clrerr s, rfl⟩
  | push bytes =>
    refine ⟨pushEffect bytes s, ?_, pushEffect_errcode bytes s⟩
    rw [exec_push, show checkPush bytes.length s = none from h]
  | finish =>
    refine ⟨finalize s, ?_, finalize_errcode s⟩
    rw [exec_finish, show checkFinish s = none from h]

/-- The same of the acceptance step of the micro level (R703). -/
theorem acceptCommand_errcode_of_checks_pass {i : Instr} {s : State} (h : failedCommandCheck i s = none) :
    (acceptCommand i s).errcode = if opcodeOf i = 0x4 then 0 else s.errcode := by
  cases i with
  | nop | init | clrerr => rfl
  | push bytes => rw [acceptCommand, show checkPush bytes.length s = none from h]; rfl
  | finish => rw [acceptCommand, show checkFinish s = none from h]; rfl

/-! ### The checks of a presented word (R806) -/

/-- The first check that a word fails on its acceptance, if any. -/
def failedCheck (cw : CommandWord) (s : State) : Option EngineError :=
  match decode cw with
  | .error _ => some .illegalOp
  | .ok i => failedCommandCheck i s

theorem failedCheck_of_decode_ok {cw : CommandWord} {i : Instr} (h : decode cw = .ok i) (s : State) :
    failedCheck cw s = failedCommandCheck i s := by rw [failedCheck, h]

/-- The checks read the engine alone. -/
@[simp] theorem failedCheck_inputs (cw : CommandWord) (s : State) (moves : List HostMove) :
    failedCheck cw { s with inputs := moves } = failedCheck cw s := rfl

/-- R801 to R803: at either level a word that fails a check records the error and does nothing else. -/
theorem acceptWord_of_failedCheck {cw : CommandWord} {s : State} {e : EngineError} (h : failedCheck cw s = some e) :
    acceptWord cw s = .next (raiseError e s) := by
  cases hdecode : decode cw with
  | error err =>
    have hillegal : EngineError.illegalOp = e := by simpa [failedCheck, hdecode] using h
    rw [acceptWord, hdecode, ← hillegal]
    rfl
  | ok i =>
    have hcommand : failedCommandCheck i s = some e := failedCheck_of_decode_ok hdecode s ▸ h
    have haccept : acceptCommand i s = raiseError e s := acceptCommand_of_failedCommandCheck hcommand
    rw [← haccept]
    exact acceptWord_of_exec_eq_acceptCommand hdecode (haccept ▸ exec_of_failedCommandCheck hcommand)

theorem opField_eq_opcodeOf {cw : CommandWord} {i : Instr} (h : decode cw = .ok i) : opField cw = opcodeOf i := by
  unfold decode at h
  split at h <;> cases h
  all_goals exact BitVec.eq_of_toNat_eq ‹_›

/-- R805: at either level a word that passes the checks leaves `errcode` as it was, CLRERR aside. -/
theorem acceptWord_errcode_of_checks_pass {cw : CommandWord} {s : State} (h : failedCheck cw s = none) :
    ∃ t, acceptWord cw s = .next t ∧ t.errcode = if opField cw = 0x4 then 0 else s.errcode := by
  cases hdecode : decode cw with
  | error err => simp [failedCheck, hdecode] at h
  | ok i =>
    have hcommand : failedCommandCheck i s = none := failedCheck_of_decode_ok hdecode s ▸ h
    rw [opField_eq_opcodeOf hdecode, acceptWord, hdecode]
    cases s.level with
    | transaction => exact exec_errcode_of_checks_pass hcommand
    | micro => exact ⟨_, rfl, acceptCommand_errcode_of_checks_pass hcommand⟩

/-! ### The first failed check, by the fields of the word (R301, R601) -/

section
variable {cw : CommandWord} (s : State)

theorem failedCheck_of_op_reserved (h : 0x5 ≤ (opField cw).toNat) : failedCheck cw s = some .illegalOp := by
  rw [failedCheck, decode_of_op_reserved h]

theorem failedCheck_of_op_push (h : opField cw = 0x2) :
    failedCheck cw s = checkPush ((nbm1Field cw).toNat + 1) s := by
  rw [failedCheck_of_decode_ok (decode_of_op_push h), failedCommandCheck, length_pushBytes]

theorem failedCheck_of_op_finish (h : opField cw = 0x3) : failedCheck cw s = checkFinish s :=
  failedCheck_of_decode_ok (decode_of_op_finish h) s

/-- NOP, INIT and CLRERR are checked for their opcode alone. -/
theorem failedCheck_of_op_unchecked (h : opField cw = 0x0 ∨ opField cw = 0x1 ∨ opField cw = 0x4) :
    failedCheck cw s = none := by
  rcases h with h | h | h
  · exact failedCheck_of_decode_ok (decode_of_op_nop h) s
  · exact failedCheck_of_decode_ok (decode_of_op_init h) s
  · exact failedCheck_of_decode_ok (decode_of_op_clrerr h) s

end

/-- R800: the code that stands for a failed check, 0 for none. -/
def checkCode (failed : Option EngineError) : BitVec 2 := failed.elim 0 errorCode

theorem checkCode_some_ne_zero (e : EngineError) : checkCode (some e) ≠ 0 := errorCode_ne_zero e

/-- R806, on the fields of the word: ILLEGAL_OP, SEQUENCE, LENGTH, in that order. -/
theorem checkCode_failedCheck (cw : CommandWord) (s : State) :
    checkCode (failedCheck cw s) =
      if 0x5 ≤ (opField cw).toNat then 1
      else if ((opField cw).toNat = 0x2 ∨ (opField cw).toNat = 0x3) ∧ s.done = true then 2
      else if (opField cw).toNat = 0x2 ∧ Config.maxMessageBytes < totalBytes s + ((nbm1Field cw).toNat + 1) then 3
      else 0 := by
  by_cases hreserved : 0x5 ≤ (opField cw).toNat
  · rw [failedCheck_of_op_reserved s hreserved, if_pos hreserved]
    rfl
  by_cases hpush : (opField cw).toNat = 0x2
  · rw [failedCheck_of_op_push s (BitVec.eq_of_toNat_eq hpush)]
    rcases checkPush_cases ((nbm1Field cw).toNat + 1) s with
      ⟨hdone, hcheck⟩ | ⟨hdone, hlimit, hcheck⟩ | ⟨hdone, hroom, hcheck⟩
    · simp [hcheck, hpush, hdone, checkCode, errorCode]
    · simp [hcheck, hpush, hdone, hlimit, checkCode, errorCode]
    · simp [hcheck, hpush, hdone, Nat.not_lt.mpr hroom, checkCode]
  by_cases hfinish : (opField cw).toNat = 0x3
  · rw [failedCheck_of_op_finish s (BitVec.eq_of_toNat_eq hfinish)]
    rcases checkFinish_cases s with ⟨hdone, hcheck⟩ | ⟨hdone, hcheck⟩
    · simp [hcheck, hfinish, hdone, checkCode, errorCode]
    · simp [hcheck, hfinish, hdone, checkCode]
  have hunchecked : (opField cw).toNat = 0x0 ∨ (opField cw).toNat = 0x1 ∨ (opField cw).toNat = 0x4 := by omega
  rw [failedCheck_of_op_unchecked s
    (hunchecked.imp BitVec.eq_of_toNat_eq (Or.imp BitVec.eq_of_toNat_eq BitVec.eq_of_toNat_eq))]
  simp [hreserved, hpush, hfinish, checkCode]

/-! ### The statements -/

/-- Settles O11: the statement's code is that of `failedCheck`, which decides what accepting the word does. -/
theorem commandChecksInOrder : Obligations.CommandChecksInOrder := by
  intro s cw rest hlaunch hin op n code
  have hcode : code = checkCode (failedCheck cw s) := (checkCode_failedCheck cw s).symm
  rw [step_present_of_launchState hlaunch hin, hcode]
  cases hfailed : failedCheck cw s with
  | some e =>
    refine ⟨fun _ => ?_, fun hzero => absurd hzero (checkCode_some_ne_zero e)⟩
    rw [acceptWord_of_failedCheck ((failedCheck_inputs cw s rest).trans hfailed), raiseError_eq]
    rfl
  | none =>
    refine ⟨fun hne => absurd rfl hne, fun _ => ?_⟩
    obtain ⟨t, hnext, herr⟩ := acceptWord_errcode_of_checks_pass ((failedCheck_inputs cw s rest).trans hfailed)
    exact ⟨t, hnext, herr.trans (if_congr BitVec.toNat_inj.symm rfl rfl)⟩

/-- Settles O22: SEQUENCE is the check that PUSH and FINISH fail in the DONE phase, before the limit is looked at. -/
theorem consumedContextRecordsSequence : Obligations.ConsumedContextRecordsSequence := by
  refine ⟨fun s bytes hdone => ?_, fun s hdone => ?_, fun i s t hi hexec herr => ?_⟩
  · have hcheck : failedCommandCheck (.push bytes) s = some .sequence := by
      simp [failedCommandCheck, checkPush, hdone]
    rw [exec_of_failedCommandCheck hcheck, raiseError_eq]
    rfl
  · have hcheck : failedCommandCheck .finish s = some .sequence := by
      simp [failedCommandCheck, checkFinish, hdone]
    rw [exec_of_failedCommandCheck hcheck, raiseError_eq]
    rfl
  · have hpass : failedCommandCheck i s = none := by
      rcases hi with rfl | rfl | rfl <;> rfl
    obtain ⟨u, hnext, hcode⟩ := exec_errcode_of_checks_pass hpass
    obtain rfl : u = t := Host.Outcome.next.inj (hnext.symm.trans hexec)
    rw [hcode]
    split
    · decide
    · exact herr

end Sys2Proof.Exceptions
end

section
/-! PROOFS. Reset (R900 of spec/70_reset_and_hazards.md): the step that takes it, that holding it writes nothing new, what the read
port shows after it, and the statement that follows. -/

namespace Sys2Proof.Reset

open Sys2Proof.Machine

/-- R900, R702: reset comes before `stopReason`, BUSY and every check, so no state keeps it from its effect. -/
theorem step_reset {s : State} {rest : List HostMove} (hin : s.inputs = .reset :: rest) :
    step s = .next (resetEngine { s with inputs := rest }) := by
  simp only [step, hostStep, hin]

/-- R900: a held reset writes the values that are there already. -/
theorem resetEngine_inputs_resetEngine (s : State) (moves : List HostMove) :
    resetEngine { resetEngine s with inputs := moves } = { resetEngine s with inputs := moves } := rfl

/-! ### The read port after a reset (R115 to R117, R900) -/

@[simp] theorem busy_resetEngine (s : State) : busy (resetEngine s) = false := rfl

@[simp] theorem resetEngine_numPending (s : State) : (resetEngine s).numPending = 0 := rfl

@[simp] theorem resetEngine_completedBlocks (s : State) : (resetEngine s).completedBlocks = 0 := rfl

@[simp] theorem statusWord_resetEngine (s : State) : statusWord (resetEngine s) = 0 := by
  simp [statusWord]

@[simp] theorem blocksLo_resetEngine (s : State) : blocksLo (resetEngine s) = 0 := by
  simp [blocksLo]

@[simp] theorem blocksHi_resetEngine (s : State) : blocksHi (resetEngine s) = 0 := by
  simp [blocksHi]

@[simp] theorem digestWord_resetEngine (s : State) (i : Nat) : digestWord (resetEngine s) i = 0 := by
  have hdigest : (resetEngine s).digest.toList = List.replicate 8 0 := rfl
  rw [digestWord, hdigest, List.getD_eq_getElem?_getD, List.getElem?_getD_replicate_default_eq]

@[simp] theorem registerRead_resetEngine (s : State) (addr : BitVec 4) : registerRead (resetEngine s) addr = 0 := by
  simp only [registerRead, statusWord_resetEngine, blocksLo_resetEngine, blocksHi_resetEngine, digestWord_resetEngine,
    ite_self]

/-- BUSY = 0 after a reset, so a read sees the registers and not a free value (R906). -/
@[simp] theorem readPort_resetEngine (draw : Nat) (s : State) (addr : BitVec 4) :
    readPort draw (resetEngine s) addr = 0 := by
  simp [readPort]

theorem readAll_resetEngine (s : State) : readAll (resetEngine s) = List.replicate 16 0 := by
  simp [readAll]

/-! ### The statement -/

/-- Settles O8: the next state is `resetEngine` of the state without the move, and a held reset finds its own writes done. -/
theorem resetAtAnyStep : Obligations.ResetAtAnyStep := by
  intro s rest hin
  refine ⟨_, step_reset hin, rfl, readAll_resetEngine _, fun rest' hheld => ?_⟩
  rw [step_reset hheld, resetEngine_inputs_resetEngine]

end Sys2Proof.Reset
end

section
/-! PROOFS. The composite functions of spec/40_word_ops.md (R407 to R410) over XOR: rotation and shift distribute, and the statement
that follows. -/

namespace Sys2Proof.Linearity

open Sys2Proof.Machine Sys2Proof.WordOps

theorem rotr_xor (x y : Word) (n : Nat) : rotr (x ^^^ y) n = rotr x n ^^^ rotr y n := by
  refine BitVec.eq_of_getLsbD_eq fun i hi => ?_
  rw [BitVec.getLsbD_xor, getLsbD_rotr _ _ hi, getLsbD_rotr _ _ hi, getLsbD_rotr _ _ hi, BitVec.getLsbD_xor]

theorem shr_xor (x y : Word) (n : Nat) : shr (x ^^^ y) n = shr x n ^^^ shr y n :=
  BitVec.ushiftRight_xor_distrib x y n

/-- Three terms, each a XOR of two, regrouped. -/
theorem xor_regroup (a b c a' b' c' : Word) :
    (a ^^^ a') ^^^ (b ^^^ b') ^^^ (c ^^^ c') = (a ^^^ b ^^^ c) ^^^ (a' ^^^ b' ^^^ c') := by
  ac_rfl

/-- Settles O36: each function is the XOR of three rotations or shifts. -/
theorem sigmaFunctionsAreLinear : Obligations.SigmaFunctionsAreLinear := fun x y => by
  simp only [bigSigma0, bigSigma1, smallSigma0, smallSigma1, rotr_xor, shr_xor, xor_regroup, and_self]

end Sys2Proof.Linearity
end

section
/-! PROOFS. The encoder (R308 of spec/30_encoding.md): the fields of an assembled word, where it places the bytes of a PUSH, and the
statements that follow. -/

namespace Sys2Proof.Encoding

open Sys2Proof.Machine Sys2Proof.Decoding Sys2Proof.ByteOrder

/-! ### The fields of an assembled word (R300) -/

/-- The four fields stand side by side, RSVD = 0. -/
theorem assembleWord_eq_append (op : BitVec 4) (nbm1 : BitVec 2) (data : Word) :
    assembleWord op nbm1 data = op ++ nbm1 ++ 0#2 ++ data := by
  refine BitVec.eq_of_getLsbD_eq fun i hi => ?_
  simp only [assembleWord, BitVec.getLsbD_or, BitVec.getLsbD_shiftLeft, BitVec.getLsbD_setWidth, BitVec.getLsbD_append]
  grind

section
variable (op : BitVec 4) (nbm1 : BitVec 2) (data : Word)

@[simp] theorem opField_assembleWord : opField (assembleWord op nbm1 data) = op := by
  rw [assembleWord_eq_append, opField]
  simp only [BitVec.extractLsb'_append_eq_ite]
  simp

@[simp] theorem nbm1Field_assembleWord : nbm1Field (assembleWord op nbm1 data) = nbm1 := by
  rw [assembleWord_eq_append, nbm1Field]
  simp only [BitVec.extractLsb'_append_eq_ite]
  simp

@[simp] theorem rsvdField_assembleWord : rsvdField (assembleWord op nbm1 data) = 0 := by
  rw [assembleWord_eq_append, rsvdField]
  simp only [BitVec.extractLsb'_append_eq_ite]
  simp

@[simp] theorem dataField_assembleWord : dataField (assembleWord op nbm1 data) = data := by
  rw [assembleWord_eq_append, dataField]
  simp only [BitVec.extractLsb'_append_eq_ite]
  simp

end

/-! ### The bytes of a PUSH (R303, R308) -/

/-- R308: byte `k` stands where R303 looks for it, 0 where there is none. -/
theorem dataByte_placeBytes (bytes : List Byte) {k : Nat} (hk : k < 4) :
    dataByte (placeBytes bytes) k = bytes.getD k 0 := by
  have hbyte := getElem?_bytes32 (placeBytes bytes) hk
  rw [placeBytes, bytes32_be32] at hbyte
  refine Option.some.inj (hbyte.symm.trans ?_)
  interval_cases k <;> rfl

/-- R302: NBM1 of an encodable PUSH counts its bytes. -/
theorem toNat_ofNat_length_sub_one {bytes : List Byte} (hpos : 1 ≤ bytes.length) (hle : bytes.length ≤ 4) :
    (BitVec.ofNat 2 (bytes.length - 1)).toNat + 1 = bytes.length := by
  rw [BitVec.toNat_ofNat]
  omega

theorem pushBytes_placeBytes {bytes : List Byte} (hpos : 1 ≤ bytes.length) (hle : bytes.length ≤ 4) :
    pushBytes (BitVec.ofNat 2 (bytes.length - 1)) (placeBytes bytes) = bytes := by
  have hcount := toNat_ofNat_length_sub_one hpos hle
  refine List.ext_getElem (by rw [length_pushBytes, hcount]) fun k _ hk => ?_
  have hbyte := getElem?_pushBytes (placeBytes bytes) (Nat.le_of_lt_succ (hcount.symm ▸ hk))
  rw [dataByte_placeBytes bytes (by omega), List.getD_eq_getElem _ _ hk] at hbyte
  exact (List.getElem?_eq_some_iff.mp hbyte).2

/-- A word that decodes to a PUSH has its OP, and its NBM1 and DATA give the bytes. -/
theorem opField_and_bytes_of_decode_push {cw : CommandWord} {bytes : List Byte} (h : decode cw = .ok (.push bytes)) :
    opField cw = 0x2 ∧ bytes = pushBytes (nbm1Field cw) (dataField cw) := by
  have hop : opField cw = 0x2 := Exceptions.opField_eq_opcodeOf h
  rw [decode_of_op_push hop] at h
  exact ⟨hop, (Instr.push.inj (Except.ok.inj h)).symm⟩

/-- R302: what a word decodes to has an encoding. -/
theorem wf_of_decode {cw : CommandWord} {i : Instr} (h : decode cw = .ok i) : i.wf = true := by
  cases i with
  | push bytes =>
    obtain ⟨-, rfl⟩ := opField_and_bytes_of_decode_push h
    have hlt := (nbm1Field cw).isLt
    simp only [Instr.wf, length_pushBytes, Bool.and_eq_true, decide_eq_true_eq]
    omega
  | nop | init | finish | clrerr => rfl

/-- R308: the encoding of a command that carries no bytes has NBM1 = 0 and DATA = 0. -/
theorem encode_of_opcodeOf_ne_push {i : Instr} (h : opcodeOf i ≠ 0x2) : encode i = assembleWord (opcodeOf i) 0 0 := by
  cases i with
  | push bytes => exact absurd rfl h
  | nop | init | finish | clrerr => rfl

theorem opField_encode (i : Instr) : opField (encode i) = opcodeOf i := by
  cases i <;> exact opField_assembleWord _ _ _

theorem rsvdField_encode (i : Instr) : rsvdField (encode i) = 0 := by
  cases i <;> exact rsvdField_assembleWord _ _ _

/-! ### The statements -/

/-- Settles O1: OP selects the command's row, and a PUSH finds its bytes where the encoder placed them. -/
theorem decodeEncodeRoundTrip : Obligations.DecodeEncodeRoundTrip := by
  intro i hwf
  cases i with
  | nop => exact decode_of_op_nop rfl
  | init => exact decode_of_op_init rfl
  | finish => exact decode_of_op_finish rfl
  | clrerr => exact decode_of_op_clrerr rfl
  | push bytes =>
    obtain ⟨hpos, hle⟩ : 1 ≤ bytes.length ∧ bytes.length ≤ 4 := by simpa [Instr.wf] using hwf
    rw [decode_of_op_push (opField_encode _), encode, nbm1Field_assembleWord, dataField_assembleWord,
      pushBytes_placeBytes hpos hle]

/-- Settles O5: the encoder writes the fields of `assembleWord`; a byte past the last one of a PUSH is placed as 0. -/
theorem encodeWritesIgnoredFieldsZero : Obligations.EncodeWritesIgnoredFieldsZero := by
  intro cw i hdecode
  have hop := Exceptions.opField_eq_opcodeOf hdecode
  refine ⟨wf_of_decode hdecode, (opField_encode i).trans hop.symm, rsvdField_encode i, fun hpush => ?used,
    fun hother => ?none⟩
  case used =>
    obtain rfl : .push (pushBytes (nbm1Field cw) (dataField cw)) = i :=
      Except.ok.inj ((decode_of_op_push hpush).symm.trans hdecode)
    rw [encode, nbm1Field_assembleWord, dataField_assembleWord, length_pushBytes, Nat.add_sub_cancel]
    refine ⟨by rw [BitVec.ofNat_toNat, BitVec.setWidth_eq], fun k hk => ?_⟩
    rw [dataByte_placeBytes _ hk, List.getD_eq_getElem?_getD]
    split
    case isTrue hle => rw [getElem?_pushBytes _ hle, Option.getD_some]
    case isFalse hgt => rw [List.getElem?_eq_none (by rw [length_pushBytes]; omega), Option.getD_none]
  case none =>
    rw [encode_of_opcodeOf_ne_push (hop ▸ hother), nbm1Field_assembleWord, dataField_assembleWord]
    exact ⟨rfl, rfl⟩

/-- Settles O6: each word's OP names its row, and the operands of a PUSH are computed from NBM1 and DATA. -/
theorem specWordsDecode : Obligations.SpecWordsDecode :=
  ⟨decode_of_op_nop rfl, decode_of_op_init rfl, decode_of_op_push rfl, decode_of_op_push rfl, decode_of_op_push rfl,
    decode_of_op_push rfl, decode_of_op_finish rfl, decode_of_op_clrerr rfl, decode_of_op_push rfl, decode_of_op_init rfl,
    decode_of_op_reserved (by decide), decode_of_op_reserved (by decide)⟩

end Sys2Proof.Encoding
end

section
/-! PROOFS. The safe states (R119, R803, R911): the invariant as propositions, what one PAD step does, that every micro-step and every
accepted word keeps the invariant, and the statements that follow. -/

namespace Sys2Proof.Invariant

open Sys2Proof.Machine Sys2Proof.Commands Sys2Proof.Padding Sys2Proof.Datapath Sys2Proof.Encoding

/-! ### The padding FSM (R653) -/

/-- Where the padding FSM stands once there are `c` bytes of message and padding, `N` of them the message's (R652, R653). -/
def PadStage (N c : Nat) : Pad → Prop
  | .none => False
  | .pad80 => c = N
  | .padz => N + 1 ≤ c ∧ c ≤ N + 1 + zeroCount N
  | .padlen k => c + k.val = N + 8 + zeroCount N
  | .paddone => c = N + 9 + zeroCount N

theorem padProgress_iff (c : Nat) (s : State) :
    padProgress c s = true ↔ s.L.toNat % 8 = 0 ∧ PadStage (s.L.toNat / 8) c s.pad := by
  cases h : s.pad <;> simp [padProgress, PadStage, h]

/-- R653: the transitions of the padding FSM that write a byte, with `np` bytes pending: from `pad`, the byte, the next `pad`. -/
inductive PadWrites (L : BitVec 64) (np : BitVec 6) : Pad → Byte → Pad → Prop
  | first : PadWrites L np .pad80 0x80 .padz
  | zero (h : np ≠ 56) : PadWrites L np .padz 0x00 .padz
  | length (k : Fin 8) (h : k ≠ 0) : PadWrites L np (.padlen k) (lengthByte L k.val) (.padlen (k - 1))
  | last : PadWrites L np (.padlen 0) (lengthByte L 0) .paddone

theorem padStep_of_padWrites {s : State} {p q : Pad} {b : Byte} (hpad : s.pad = p)
    (h : PadWrites s.L s.numPending p b q) : padStep s = writeByte b { s with pad := q } := by
  cases h with
  | first => simp only [padStep, hpad]
  | zero hne =>
    simp only [padStep, hpad, if_neg hne]
    exact congrArg (writeByte 0x00) (by rw [← hpad])
  | length k hne => simp only [padStep, hpad, if_neg hne]
  | last => simp only [padStep, hpad]; rfl

/-- R653, R705: what a PAD step to which a rule applies can do. -/
theorem padStep_cases {s : State} (hnone : s.pad ≠ .none) (hdone : s.pad = .paddone → s.numPending = 0) :
    (∃ b p, PadWrites s.L s.numPending s.pad b p ∧ padStep s = writeByte b { s with pad := p }) ∨
    (s.pad = .padz ∧ s.numPending = 56 ∧ padStep s = { s with pad := .padlen 7 }) ∨
    (s.pad = .paddone ∧ s.numPending = 0 ∧ padStep s = { s with fsm := .capture }) := by
  cases hpad : s.pad with
  | none => exact absurd hpad hnone
  | pad80 => exact .inl ⟨_, _, .first, padStep_of_padWrites hpad .first⟩
  | padz =>
    by_cases h56 : s.numPending = 56
    · exact .inr (.inl ⟨rfl, h56, by simp only [padStep, hpad, if_pos h56]⟩)
    · exact .inl ⟨_, _, .zero h56, padStep_of_padWrites hpad (.zero h56)⟩
  | padlen k =>
    obtain rfl | hk := eq_or_ne k 0
    · exact .inl ⟨_, _, .last, padStep_of_padWrites hpad .last⟩
    · exact .inl ⟨_, _, .length k hk, padStep_of_padWrites hpad (.length k hk)⟩
  | paddone => exact .inr (.inr ⟨rfl, hdone hpad, by simp only [padStep, hpad, if_pos (hdone hpad)]⟩)

/-- A byte written brings the padding FSM one byte further. Zero bytes end where 56 bytes are pending. -/
theorem padStage_of_padWrites {L : BitVec 64} {np : BitVec 6} {p q : Pad} {b : Byte} (h : PadWrites L np p b q) {N c : Nat}
    (hnp : c % 64 = np.toNat) (hstage : PadStage N c p) : PadStage N (c + 1) q := by
  have hzeros := add_zeroCount_mod N
  cases h with
  | first => simp only [PadStage] at hstage ⊢; omega
  | zero hne =>
    have h56 : np.toNat ≠ 56 := fun h => hne (BitVec.eq_of_toNat_eq h)
    simp only [PadStage] at hstage ⊢
    omega
  | length k hk =>
    have hpred := Fin.val_sub_one_of_ne_zero hk
    have hpos := Fin.pos_iff_ne_zero.mpr hk
    simp only [PadStage] at hstage ⊢
    omega
  | last => simp only [PadStage, Fin.val_zero] at hstage ⊢; omega

/-- R653: the zero bytes are complete where 56 bytes are pending. -/
theorem padStage_padlen_of_padz {N c : Nat} (h56 : c % 64 = 56) (hstage : PadStage N c .padz) : PadStage N c (.padlen 7) := by
  have hzeros := add_zeroCount_mod N
  have hlt := zeroCount_lt N
  have hseven : (7 : Fin 8).val = 7 := rfl
  simp only [PadStage] at hstage ⊢
  omega

/-- R653: with the padding complete no byte is pending. -/
theorem mod_eq_zero_of_padStage_paddone {N c : Nat} (hstage : PadStage N c .paddone) : c % 64 = 0 := by
  have hzeros := add_zeroCount_mod N
  simp only [PadStage] at hstage
  omega

theorem le_of_padStage {N c : Nat} {p : Pad} (hstage : PadStage N c p) : c ≤ N + 72 := by
  have hlt := zeroCount_lt N
  cases p <;> simp only [PadStage] at hstage <;> omega

/-! ### The invariant as propositions -/

/-- The command in progress can go on with `c` bytes of message and padding appended: the rest of the PUSH is within the limit, or
the padding FSM stands where it belongs. -/
def CanContinue (c : Nat) (s : State) : Prop :=
  s.done = false ∧
    ((s.mode = .pushing ∧ s.inq.length ≤ 3 ∧ c + s.inq.length ≤ Config.maxMessageBytes) ∨
      (s.mode = .finishing ∧ padProgress c s = true))

/-- The states between LOAD and FEEDBACK. -/
def compressing (s : State) : Prop := s.fsm = .load ∨ s.fsm = .round ∨ s.fsm = .feedback

theorem blockInFlight_iff (s : State) :
    blockInFlight s = true ↔ s.numPending = 63 ∧ CanContinue (totalBytes s + 1) s := by
  cases hmode : s.mode <;> simp [blockInFlight, CanContinue, hmode, and_assoc, and_left_comm]

/-- A safe state in the middle of a compression. -/
theorem safeState_compressing_iff {s : State} (h : compressing s) :
    safeState s = true ↔ Memory.wf s.pending = true ∧ s.numPending = 63 ∧ CanContinue (totalBytes s + 1) s := by
  rw [← blockInFlight_iff]
  obtain h | h | h := h <;> simp only [safeState, h, Bool.and_eq_true]

/-- A safe state with bytes of a PUSH ahead. -/
theorem safeState_append_iff {s : State} (h : s.fsm = .append) :
    safeState s = true ↔ Memory.wf s.pending = true ∧ s.done = false ∧ s.mode = .pushing ∧ s.inq ≠ [] ∧
      s.inq.length ≤ 4 ∧ totalBytes s + s.inq.length ≤ Config.maxMessageBytes := by
  simp only [safeState, h, Bool.and_eq_true, decide_eq_true_eq, Bool.not_eq_true', List.isEmpty_eq_false_iff, and_assoc]

/-- A safe state in the middle of the padding. -/
theorem safeState_pad_iff {s : State} (h : s.fsm = .pad) :
    safeState s = true ↔ Memory.wf s.pending = true ∧ s.done = false ∧ s.mode = .finishing ∧
      padProgress (totalBytes s) s = true := by
  simp only [safeState, h, Bool.and_eq_true, decide_eq_true_eq, Bool.not_eq_true', and_assoc]

/-- R708: where FEEDBACK goes is a safe place. -/
theorem safeState_of_canContinue {s : State} (hfsm : s.fsm = afterFeedback s) (hwf : Memory.wf s.pending = true)
    (hgo : CanContinue (totalBytes s) s) : safeState s = true := by
  obtain ⟨hdone, ⟨hmode, hlen, hroom⟩ | ⟨hmode, hpad⟩⟩ := hgo
  · cases hinq : s.inq with
    | nil =>
      have hidle : s.fsm = .idle := by simp [hfsm, afterFeedback, hmode, hinq]
      refine (safeState_idle_iff hidle).mpr ⟨hwf, ?_⟩
      simp only [hdone, Bool.false_eq_true, if_false]
      omega
    | cons b rest =>
      have happend : s.fsm = .append := by simp [hfsm, afterFeedback, hmode, hinq]
      exact (safeState_append_iff happend).mpr ⟨hwf, hdone, hmode, by simp [hinq], by omega, hroom⟩
  · have hfinish : s.fsm = .pad := by simp [hfsm, afterFeedback, hmode]
    exact (safeState_pad_iff hfinish).mpr ⟨hwf, hdone, hmode, hpad⟩

/-! ### Every micro-step keeps the safe states -/

/-- R704: WriteByte keeps the safe states, whether or not the byte completes a block. -/
theorem safeState_writeByte {s : State} (b : Byte) (hfsm : s.fsm = afterFeedback s) (hwf : Memory.wf s.pending = true)
    (hgo : CanContinue (totalBytes s + 1) s) : safeState (writeByte b s) = true := by
  have hwf' := writeByte_wf b s hwf
  obtain ⟨hne, heq⟩ | ⟨hfull, heq⟩ := writeByte_cases s b
  · have hcount : totalBytes (writeByte b s) = totalBytes s + 1 := by
      rw [heq, totalBytes, numPending_succ hne]
      rfl
    refine safeState_of_canContinue ?_ hwf' ?_
    · rw [heq]; exact hfsm
    · rw [hcount, heq]; exact hgo
  · have hload : compressing (writeByte b s) := .inl (by rw [heq])
    refine (safeState_compressing_iff hload).mpr ⟨hwf', ?_⟩
    rw [heq]
    exact ⟨hfull, hgo⟩

theorem appendStep_of_cons {s : State} {b : Byte} {rest : List Byte} (h : s.inq = b :: rest) :
    appendStep s = writeByte b { s with inq := rest, fsm := if rest.isEmpty then .idle else .append } := by
  simp only [appendStep, h]

theorem safeState_appendStep {s : State} (hfsm : s.fsm = .append) (hsafe : safeState s = true) :
    safeState (appendStep s) = true := by
  obtain ⟨hwf, hdone, hmode, hne, hlen, hroom⟩ := (safeState_append_iff hfsm).mp hsafe
  obtain ⟨b, rest, hinq⟩ := List.exists_cons_of_ne_nil hne
  rw [hinq, List.length_cons] at hlen hroom
  rw [appendStep_of_cons hinq]
  refine safeState_writeByte b (by simp [afterFeedback, hmode]) hwf ⟨hdone, .inl ⟨hmode, ?_, ?_⟩⟩
  · exact Nat.le_of_succ_le_succ hlen
  · rw [Nat.add_assoc, Nat.add_comm 1]
    exact hroom

/-- R119 (clause 2): the padding of a message within the limit ends in whole blocks. -/
theorem paddedTotal_of_paddone {s : State} (hpad : s.pad = .paddone) (hprogress : padProgress (totalBytes s) s = true) :
    paddedTotal s = true := by
  obtain ⟨-, hstage⟩ := (padProgress_iff _ s).mp hprogress
  rw [hpad] at hstage
  have hempty := mod_eq_zero_of_padStage_paddone hstage
  have hle := le_of_padStage hstage
  have hbits := s.L.isLt
  rw [totalBytes_mod] at hempty
  simp only [PadStage] at hstage
  refine (paddedTotal_iff s).mpr ⟨BitVec.eq_of_toNat_eq hempty, ?_, ?_⟩
  · rw [totalBytes] at hstage
    omega
  · rw [Config.maxMessageBytes]
    omega

/-- R653: wherever the padding stands, a rule of the padding FSM applies. -/
theorem padRule_of_padProgress {s : State} (hprogress : padProgress (totalBytes s) s = true) :
    s.pad ≠ .none ∧ (s.pad = .paddone → s.numPending = 0) := by
  refine ⟨fun hnone => ?_, fun hpad => ((paddedTotal_iff s).mp (paddedTotal_of_paddone hpad hprogress)).1⟩
  have hstage := ((padProgress_iff _ s).mp hprogress).2
  rw [hnone] at hstage
  exact hstage

theorem safeState_padStep {s : State} (hfsm : s.fsm = .pad) (hsafe : safeState s = true) :
    safeState (padStep s) = true := by
  obtain ⟨hwf, hdone, hmode, hprogress⟩ := (safeState_pad_iff hfsm).mp hsafe
  obtain ⟨hbytes, hstage⟩ := (padProgress_iff _ s).mp hprogress
  obtain ⟨hnone, hzero⟩ := padRule_of_padProgress hprogress
  obtain ⟨b, p, hwrites, heq⟩ | ⟨hpad, h56, heq⟩ | ⟨hpad, -, heq⟩ := padStep_cases hnone hzero
  · have hnext := padStage_of_padWrites hwrites (totalBytes_mod s) hstage
    rw [heq]
    exact safeState_writeByte b (by simp [afterFeedback, hmode, hfsm]) hwf
      ⟨hdone, .inr ⟨hmode, (padProgress_iff _ _).mpr ⟨hbytes, hnext⟩⟩⟩
  · rw [hpad] at hstage
    have hnext := padStage_padlen_of_padz (by rw [totalBytes_mod, h56]; rfl) hstage
    rw [heq]
    exact (safeState_pad_iff (s := { s with pad := .padlen 7 }) hfsm).mpr
      ⟨hwf, hdone, hmode, (padProgress_iff _ _).mpr ⟨hbytes, hnext⟩⟩
  · rw [heq]
    exact (safeState_capture_iff rfl).mpr ⟨hwf, hdone, hmode, paddedTotal_of_paddone hpad hprogress⟩

theorem roundStep_compressing {s : State} (h : compressing s) : compressing (roundStep s) := by
  by_cases ht : s.t = 63
  · exact .inr (.inr (by simp [roundStep, ht]))
  · have hfsm : (roundStep s).fsm = s.fsm := by simp only [roundStep, if_neg ht]
    simpa only [compressing, hfsm] using h

theorem roundsStep_compressing (r : Nat) {s : State} (h : compressing s) : compressing (roundsStep r s) := by
  induction r generalizing s with
  | zero => exact h
  | succ r ih =>
    rw [roundsStep]
    split
    · exact ih (roundStep_compressing h)
    · exact h

/-- What the invariant says of a compression is about registers that LOAD and the rounds do not write. -/
theorem safeState_congr_of_compressing {s t : State} (hs : compressing s) (ht : compressing t)
    (hpending : t.pending = s.pending) (hnp : t.numPending = s.numPending) (hblocks : t.completedBlocks = s.completedBlocks)
    (hdone : t.done = s.done) (hmode : t.mode = s.mode) (hinq : t.inq = s.inq) (hpad : t.pad = s.pad) (hL : t.L = s.L) :
    safeState t = safeState s := by
  rw [Bool.eq_iff_iff, safeState_compressing_iff hs, safeState_compressing_iff ht]
  simp only [CanContinue, padProgress_iff, totalBytes, hpending, hnp, hblocks, hdone, hmode, hinq, hpad, hL]

theorem canContinue_bound {c : Nat} {s : State} (h : CanContinue c s) : c ≤ Config.maxMessageBytes + 72 := by
  obtain ⟨-, ⟨-, -, hroom⟩ | ⟨-, hprogress⟩⟩ := h
  · omega
  · have hle := le_of_padStage ((padProgress_iff _ s).mp hprogress).2
    have hbits := s.L.isLt
    rw [Config.maxMessageBytes]
    omega

/-- R708: FEEDBACK counts the block whose last byte was written before it. -/
theorem totalBytes_feedbackStep {s : State} (hfull : s.numPending = 63)
    (hbound : totalBytes s + 1 ≤ Config.maxMessageBytes + 72) : totalBytes (feedbackStep s) = totalBytes s + 1 := by
  have hone : (1 : BitVec 64).toNat = 1 := rfl
  have hzero : (0 : BitVec 6).toNat = 0 := rfl
  have h63 : (63 : BitVec 6).toNat = 63 := rfl
  rw [totalBytes, hfull, h63, Config.maxMessageBytes] at hbound
  rw [totalBytes, totalBytes, feedbackStep_completedBlocks, feedbackStep_numPending, hfull, BitVec.toNat_add, hone, hzero, h63]
  omega

theorem safeState_feedbackStep {s : State} (hfsm : s.fsm = .feedback) (hsafe : safeState s = true) :
    safeState (feedbackStep s) = true := by
  obtain ⟨hwf, hfull, hgo⟩ := (safeState_compressing_iff (.inr (.inr hfsm))).mp hsafe
  refine safeState_of_canContinue ?_ hwf ?_
  · obtain ⟨-, ⟨hmode, -⟩ | ⟨hmode, -⟩⟩ := hgo <;> simp [feedbackStep, afterFeedback, hmode]
  · rw [totalBytes_feedbackStep hfull (canContinue_bound hgo)]
    exact hgo

theorem safeState_captureStep {s : State} (hfsm : s.fsm = .capture) (hsafe : safeState s = true) :
    safeState (captureStep s) = true := by
  obtain ⟨hwf, -, -, hpadded⟩ := (safeState_capture_iff hfsm).mp hsafe
  exact (safeState_idle_iff rfl).mpr ⟨hwf, hpadded⟩

/-- R702: every micro-step keeps the safe states. -/
theorem safeState_busyStep (r : Nat) {s : State} (hsafe : safeState s = true) : safeState (busyStep r s) = true := by
  unfold busyStep
  split
  case h_1 => exact hsafe
  case h_2 h => exact safeState_appendStep h hsafe
  case h_3 h => exact safeState_padStep h hsafe
  case h_4 h =>
    rw [safeState_congr_of_compressing (.inl h) (.inr (.inl (loadStep_fsm s))) rfl rfl rfl rfl rfl rfl rfl rfl]
    exact hsafe
  case h_5 h =>
    rw [safeState_congr_of_compressing (.inr (.inl h)) (roundsStep_compressing r (.inr (.inl h))) (by simp) (by simp) (by simp)
      (by simp) (by simp) (by simp) (by simp) (by simp)]
    exact hsafe
  case h_6 h => exact safeState_feedbackStep h hsafe
  case h_7 h => exact safeState_captureStep h hsafe

theorem safeState_busySteps (r n : Nat) {s : State} (hsafe : safeState s = true) : safeState (busySteps r n s) = true := by
  induction n generalizing s with
  | zero => exact hsafe
  | succ n ih => exact ih (safeState_busyStep r hsafe)

end Sys2Proof.Invariant
end

section
/-! PROOFS. What a step can do to the engine (R702), said once for both levels: what accepting a command does (R601, R703), one equation
per move of the host, and the engine's part of a step; then the statements about single steps that follow. -/

namespace Sys2Proof.Steps

open Sys2Proof.Machine Sys2Proof.Commands Sys2Proof.Padding Sys2Proof.Exceptions Sys2Proof.Reset

/-! ### Accepting a command (R601, R703) -/

/-- R703: the acceptance step of a PUSH that passes its checks. -/
def startPush (bytes : List Byte) (s : State) : State := { s with mode := .pushing, inq := bytes, fsm := .append }

/-- R703: the acceptance step of a FINISH that passes its check. -/
def startFinish (s : State) : State := { s with L := messageBits s, mode := .finishing, pad := .pad80, fsm := .pad }

/-- What accepting a command can do, at the transaction level (`push`, `finish`) and at the micro level (`startPush`,
`startFinish`). -/
inductive CommandEffect (s : State) : Instr → State → Prop
  | error {i : Instr} (e : EngineError) (h : failedCommandCheck i s = some e) : CommandEffect s i (raiseError e s)
  | nop : CommandEffect s .nop s
  | init : CommandEffect s .init (initContext s)
  | clrerr : CommandEffect s .clrerr (clearError s)
  | push (bytes : List Byte) (hdone : s.done = false) (hroom : totalBytes s + bytes.length ≤ Config.maxMessageBytes) :
      CommandEffect s (.push bytes) (pushEffect bytes s)
  | finish (hdone : s.done = false) : CommandEffect s .finish (finalize s)
  | startPush (bytes : List Byte) (hdone : s.done = false)
      (hroom : totalBytes s + bytes.length ≤ Config.maxMessageBytes) : CommandEffect s (.push bytes) (startPush bytes s)
  | startFinish (hdone : s.done = false) : CommandEffect s .finish (startFinish s)

theorem acceptCommand_push_of_room {bytes : List Byte} {s : State} (hdone : s.done = false)
    (hroom : totalBytes s + bytes.length ≤ Config.maxMessageBytes) : acceptCommand (.push bytes) s = startPush bytes s := by
  have hpass : checkPush bytes.length s = none := by simp [checkPush, hdone, Nat.not_lt.mpr hroom]
  simp only [acceptCommand, hpass, startPush]

theorem acceptCommand_finish_of_not_done {s : State} (hdone : s.done = false) : acceptCommand .finish s = startFinish s := by
  have hpass : checkFinish s = none := by simp [checkFinish, hdone]
  simp only [acceptCommand, hpass, startFinish]

/-- A command that passes its checks finds what R601 asks for. -/
theorem checkPush_eq_none {n : Nat} {s : State} (h : checkPush n s = none) :
    s.done = false ∧ totalBytes s + n ≤ Config.maxMessageBytes := by
  rcases checkPush_cases n s with ⟨-, hsome⟩ | ⟨-, -, hsome⟩ | ⟨hdone, hroom, -⟩
  · cases h.symm.trans hsome
  · cases h.symm.trans hsome
  · exact ⟨hdone, hroom⟩

theorem checkFinish_eq_none {s : State} (h : checkFinish s = none) : s.done = false := by
  rcases checkFinish_cases s with ⟨-, hsome⟩ | ⟨hdone, -⟩
  · cases h.symm.trans hsome
  · exact hdone

theorem commandEffect_of_exec {i : Instr} {s t : State} (h : exec i s = .next t) : CommandEffect s i t := by
  cases hcheck : failedCommandCheck i s with
  | some e =>
    obtain rfl := Host.Outcome.next.inj ((exec_of_failedCommandCheck hcheck).symm.trans h)
    exact .error e hcheck
  | none =>
    cases i with
    | nop => obtain rfl := Host.Outcome.next.inj ((exec_nop s).symm.trans h); exact .nop
    | init => obtain rfl := Host.Outcome.next.inj ((exec_init s).symm.trans h); exact .init
    | clrerr => obtain rfl := Host.Outcome.next.inj ((exec_clrerr s).symm.trans h); exact .clrerr
    | push bytes =>
      obtain ⟨hdone, hroom⟩ := checkPush_eq_none hcheck
      obtain rfl := Host.Outcome.next.inj ((exec_push_of_room hdone hroom).symm.trans h)
      exact .push bytes hdone hroom
    | finish =>
      have hdone := checkFinish_eq_none hcheck
      obtain rfl := Host.Outcome.next.inj ((exec_finish_of_not_done hdone).symm.trans h)
      exact .finish hdone

theorem commandEffect_acceptCommand (i : Instr) (s : State) : CommandEffect s i (acceptCommand i s) := by
  cases hcheck : failedCommandCheck i s with
  | some e =>
    rw [acceptCommand_of_failedCommandCheck hcheck]
    exact .error e hcheck
  | none =>
    cases i with
    | nop => exact .nop
    | init => exact .init
    | clrerr => exact .clrerr
    | push bytes =>
      obtain ⟨hdone, hroom⟩ := checkPush_eq_none hcheck
      rw [acceptCommand_push_of_room hdone hroom]
      exact .startPush bytes hdone hroom
    | finish =>
      have hdone := checkFinish_eq_none hcheck
      rw [acceptCommand_finish_of_not_done hdone]
      exact .startFinish hdone

/-- R600, R801: what accepting a word can do. -/
theorem acceptWord_cases {cw : CommandWord} {s t : State} (h : acceptWord cw s = .next t) :
    ((∃ err, decode cw = .error err) ∧ t = raiseError .illegalOp s) ∨ ∃ i, decode cw = .ok i ∧ CommandEffect s i t := by
  cases hdecode : decode cw with
  | error err =>
    rw [acceptWord, hdecode] at h
    exact .inl ⟨⟨err, rfl⟩, (Host.Outcome.next.inj h).symm⟩
  | ok i =>
    rw [acceptWord, hdecode] at h
    refine .inr ⟨i, rfl, ?_⟩
    cases hlevel : s.level <;> simp only [hlevel] at h
    case transaction => exact commandEffect_of_exec h
    case micro =>
      obtain rfl := Host.Outcome.next.inj h
      exact commandEffect_acceptCommand i s

theorem acceptWord_transaction {cw : CommandWord} {s : State} {i : Instr} (hlevel : s.level = .transaction)
    (hdecode : decode cw = .ok i) : acceptWord cw s = exec i s := by
  simp only [acceptWord, hdecode, hlevel]

theorem acceptWord_micro {cw : CommandWord} {s : State} {i : Instr} (hlevel : s.level = .micro)
    (hdecode : decode cw = .ok i) : acceptWord cw s = .next (acceptCommand i s) := by
  simp only [acceptWord, hdecode, hlevel]

/-! ### One equation per move of the host (R702) -/

theorem busy_eq_false_iff (s : State) : busy s = false ↔ s.fsm = .idle := by simp [busy]

theorem busy_eq_true_iff (s : State) : busy s = true ↔ s.fsm ≠ .idle := by simp [busy]

/-- The machine stops at every move but a reset. -/
theorem step_of_stopReason {s : State} {f : Fault} (h : stopReason s = some f)
    (hreset : ∀ rest, s.inputs ≠ .reset :: rest) : step s = .fault f := by
  have hstop (o : Host.Outcome State Fault Refusal) : unlessStopped s o = .fault f := by simp only [unlessStopped, h]
  unfold step hostStep
  split
  case h_1 rest hin => exact absurd hin (hreset rest)
  all_goals exact hstop _

section
variable {s : State} {rest : List HostMove} (hrun : stopReason s = none)
include hrun

theorem step_present_of_busy {cw : CommandWord} (hin : s.inputs = .present cw :: rest) (hbusy : busy s = true) :
    step s = .next (engineStep s) := by
  simp only [step, hostStep, hin, unlessStopped_of_none _ hrun, hbusy, if_true]

theorem step_present_of_idle {cw : CommandWord} (hin : s.inputs = .present cw :: rest) (hidle : busy s = false) :
    step s = acceptWord cw { s with inputs := rest } := by
  simp only [step, hostStep, hin, unlessStopped_of_none _ hrun, hidle, Bool.false_eq_true, if_false]

theorem step_read {addr : BitVec 4} (hin : s.inputs = .read addr :: rest) :
    step s = .next (hostRead addr { s with inputs := rest }) := by
  simp only [step, hostStep, hin, unlessStopped_of_none _ hrun]

theorem step_wait (hin : s.inputs = .wait :: rest) : step s = .next (engineStep { s with inputs := rest }) := by
  simp only [step, hostStep, hin, unlessStopped_of_none _ hrun]

theorem step_waitIdle (hin : s.inputs = .waitIdle :: rest) : step s = .next (pollStatus rest s) := by
  simp only [step, hostStep, hin, unlessStopped_of_none _ hrun]

theorem step_nil (hin : s.inputs = []) : step s = .next (engineStep s) := by
  simp only [step, hostStep, hin, unlessStopped_of_none _ hrun]

/-- Where the machine does not stop, every move has a next state. -/
theorem step_next : ∃ t, step s = .next t := by
  match hin : s.inputs with
  | [] => exact ⟨_, step_nil hrun hin⟩
  | .reset :: rest => exact ⟨_, step_reset hin⟩
  | .present cw :: rest =>
    cases hbusy : busy s with
    | true => exact ⟨_, step_present_of_busy hrun hin hbusy⟩
    | false =>
      rw [step_present_of_idle hrun hin hbusy]
      exact acceptWord_next cw _
  | .read addr :: rest => exact ⟨_, step_read hrun hin⟩
  | .wait :: rest => exact ⟨_, step_wait hrun hin⟩
  | .waitIdle :: rest => exact ⟨_, step_waitIdle hrun hin⟩

end

/-! ### The engine's part of a step -/

/-- The two states differ in the host's side alone: the moves ahead, the value read and the count of reads. -/
def SameEngine (t s : State) : Prop := t = { s with inputs := t.inputs, rdata := t.rdata, draws := t.draws }

theorem sameEngine_refl (s : State) : SameEngine s s := rfl

theorem SameEngine.safeState_eq {s t : State} (h : SameEngine t s) : safeState t = safeState s := by
  rw [h]
  rfl

theorem SameEngine.digestLaw_iff {s t : State} (h : SameEngine t s) : digestLaw t ↔ digestLaw s := by
  rw [h]
  rfl

/-- The engine steps alike whatever stands on the host's side. -/
theorem sameEngine_engineStep_inputs (s : State) (moves : List HostMove) :
    SameEngine (engineStep { s with inputs := moves }) (engineStep s) := by
  have hside := busyStep_hostSide Config.roundsPerStep s moves s.rdata s.draws
  rw [SameEngine, engineStep]
  simpa [engineStep] using hside

theorem sameEngine_pollStatus (rest : List HostMove) (s : State) :
    SameEngine (pollStatus rest s) s ∨ SameEngine (pollStatus rest s) (engineStep s) := by
  cases hbusy : busy s with
  | true => exact .inr (by rw [pollStatus_of_busy rest hbusy]; rfl)
  | false => exact .inl (by rw [pollStatus_of_idle rest hbusy]; rfl)

/-- R702: a step resets the engine, accepts a word, leaves the engine as it is, or is its micro-step. -/
theorem step_engine_cases {s t : State} (h : step s = .next t) :
    (∃ rest, s.inputs = .reset :: rest ∧ t = resetEngine { s with inputs := rest }) ∨
    (∃ cw rest, s.inputs = .present cw :: rest ∧ s.fsm = .idle ∧ acceptWord cw { s with inputs := rest } = .next t) ∨
    SameEngine t s ∨ SameEngine t (engineStep s) := by
  obtain hreset | ⟨-, ⟨_, _, -, -, rfl⟩ | ⟨cw, rest, hin, hidle, haccept⟩ | ⟨_, _, -, rfl⟩ | ⟨rest, -, rfl⟩ |
    ⟨rest, -, rfl⟩ | ⟨-, rfl⟩⟩ := step_cases h
  · exact .inl hreset
  · exact .inr (.inr (.inr (sameEngine_refl _)))
  · exact .inr (.inl ⟨cw, rest, hin, (busy_eq_false_iff s).mp hidle, haccept⟩)
  · exact .inr (.inr (.inl rfl))
  · exact .inr (.inr (.inr (sameEngine_engineStep_inputs s rest)))
  · exact .inr (.inr (sameEngine_pollStatus rest s))
  · exact .inr (.inr (.inr (sameEngine_refl _)))

/-! ### The phase and the error code under a micro-step (R105, R106) -/

/-- R656, R708: only CAPTURE sets the phase and the digest. -/
theorem busyStep_done_digest {s : State} (r : Nat) (h : s.fsm ≠ .capture) :
    (busyStep r s).done = s.done ∧ (busyStep r s).digest = s.digest := by
  unfold busyStep
  split
  case h_7 hcapture => exact absurd hcapture h
  all_goals simp

/-! ### The statements -/

/-- Settles O9: the word is accepted at the transaction level, where accepting is `exec`. -/
theorem stepRunsAcceptedCommand : Obligations.StepRunsAcceptedCommand := by
  intro s cw rest i hlaunch hlevel hin hdecode
  rw [step_present_of_launchState hlaunch hin]
  exact acceptWord_transaction hlevel hdecode

/-- Settles O10: the word is accepted at the micro level, where accepting is `acceptCommand`. -/
theorem microStepAcceptsCommand : Obligations.MicroStepAcceptsCommand := by
  intro s cw rest i hlaunch hlevel hin hdecode
  rw [step_present_of_launchState hlaunch hin]
  exact acceptWord_micro hlevel hdecode

/-- Settles O13: the engine's own step, which both cases take, does nothing at IDLE. -/
theorem idleEngineKeepsItsState : Obligations.IdleEngineKeepsItsState := by
  intro s hlaunch
  obtain ⟨hidle, -⟩ := (launchState_iff s).mp hlaunch
  have hrun := stopReason_of_launchState hlaunch
  refine ⟨fun hin => ?_, fun rest hin => ?_⟩
  · rw [step_nil hrun hin, engineStep, busyStep_idle _ hidle]
  · rw [step_wait hrun hin, engineStep, busyStep_idle]
    exact hidle

/-- Settles O49: the state is the one `lengthBroken` tests for. -/
theorem statePastTheLimitFaults : Obligations.StatePastTheLimitFaults := by
  intro s hidle hdone hlimit hreset
  have hbroken : lengthBroken s = true := by
    simp only [lengthBroken, (busy_eq_false_iff s).mpr hidle, hdone, Bool.not_false, Bool.true_and, decide_eq_true_eq]
    exact hlimit
  exact step_of_stopReason (by rw [stopReason, if_pos hbroken]) hreset

/-- Settles O43: these commands are accepted by the effect they have whole, a failed check being that of `failedCommandCheck`. -/
theorem unbusyCommandsCompleteAtAcceptance : Obligations.UnbusyCommandsCompleteAtAcceptance := by
  intro i s hidle hcases
  have hfails {e : EngineError} (h : failedCommandCheck i s = some e) :
      exec i s = .next (acceptCommand i s) ∧ (acceptCommand i s).fsm = .idle := by
    rw [acceptCommand_of_failedCommandCheck h, raiseError_fsm]
    exact ⟨exec_of_failedCommandCheck h, hidle⟩
  obtain rfl | rfl | rfl | ⟨rfl, hdone⟩ | ⟨bytes, rfl, hfail⟩ := hcases
  · exact ⟨rfl, hidle⟩
  · exact ⟨rfl, hidle⟩
  · exact ⟨rfl, hidle⟩
  · exact hfails (e := .sequence) (by simp [failedCommandCheck, checkFinish, hdone])
  · rcases checkPush_cases bytes.length s with ⟨-, hcheck⟩ | ⟨-, -, hcheck⟩ | ⟨hdone, hroom, -⟩
    · exact hfails hcheck
    · exact hfails hcheck
    · obtain hdone' | hlimit := hfail
      · rw [hdone] at hdone'
        cases hdone'
      · omega

/-- Settles O21: LENGTH is the check such a PUSH fails; the one check of FINISH is SEQUENCE. -/
theorem pushPastTheLimitRecordsLength : Obligations.PushPastTheLimitRecordsLength := by
  refine ⟨fun s bytes hdone hlimit => ?push, fun s t hexec hcode => ?finish⟩
  case push =>
    have hcheck : failedCommandCheck (.push bytes) s = some .length := by
      have hpast : Config.maxMessageBytes < totalBytes s + bytes.length := hlimit
      simp [failedCommandCheck, checkPush, hdone, hpast]
    rw [exec_of_failedCommandCheck hcheck, raiseError_eq]
    rfl
  case finish =>
    cases commandEffect_of_exec hexec with
    | finish => simpa using hcode
    | startFinish => exact hcode
    | error e hcheck =>
      rcases checkFinish_cases s with ⟨-, hseq⟩ | ⟨-, hpass⟩
      · obtain rfl : EngineError.sequence = e := Option.some.inj (hseq.symm.trans hcheck)
        unfold raiseError
        split
        · exact (by decide : errorCode .sequence ≠ 3)
        · exact hcode
      · cases hpass.symm.trans hcheck

/-- Settles O25: in the DONE phase every command but NOP, INIT and CLRERR fails its check. -/
theorem doneContextStaysFixed : Obligations.DoneContextStaysFixed := by
  intro i s t hdone hinit hexec
  cases commandEffect_of_exec hexec with
  | error e => simp [hdone]
  | nop => simp [hdone]
  | clrerr => simp [hdone]
  | init => exact absurd rfl hinit
  | push _ h | finish h | startPush _ h | startFinish h => cases hdone.symm.trans h

/-- Settles O26: a micro-step moves the phase in CAPTURE only, and of the accepted commands INIT and FINISH alone do. -/
theorem onlyFinishAndInitMoveThePhase : Obligations.OnlyFinishAndInitMoveThePhase := by
  intro s t hstep
  have hkeep (h : t.done = s.done) {p q : Prop} :
      (s.done = true → t.done = false → p) ∧ (s.done = false → t.done = true → q) := by
    rw [h]
    simp +contextual
  obtain ⟨rest, hin, rfl⟩ | ⟨cw, rest, hin, hidle, haccept⟩ | hsame | hsame := step_engine_cases hstep
  case inl => exact ⟨fun _ _ => .inl ⟨rest, hin⟩, fun _ hset => absurd hset Bool.false_ne_true⟩
  case inr.inl =>
    obtain ⟨-, rfl⟩ | ⟨i, hdecode, heffect⟩ := acceptWord_cases haccept
    · exact hkeep (raiseError_done _ _)
    · cases heffect with
      | error => exact hkeep (raiseError_done _ _)
      | nop | clrerr | startPush | startFinish => exact hkeep rfl
      | push => exact hkeep (pushEffect_done _ _)
      | init => exact ⟨fun _ _ => .inr ⟨cw, rest, hin, hidle, hdecode⟩, fun _ hset => absurd hset Bool.false_ne_true⟩
      | finish hdone =>
        exact ⟨fun hset => absurd (hdone.symm.trans hset) Bool.false_ne_true,
          fun _ _ => .inr ⟨cw, rest, hin, hidle, hdecode⟩⟩
  case inr.inr.inl => exact hkeep (by rw [hsame])
  case inr.inr.inr =>
    by_cases hcapture : s.fsm = .capture
    · refine ⟨fun _ hclear => ?_, fun _ _ => .inl hcapture⟩
      rw [hsame, engineStep, busyStep, hcapture] at hclear
      cases hclear
    · refine hkeep ?_
      rw [hsame]
      exact (busyStep_done_digest Config.roundsPerStep hcapture).1

/-- Settles O27: a micro-step keeps `errcode`, and of the accepted words only CLRERR and those that fail a check change it. -/
theorem errcodeKeepsTheFirstError : Obligations.ErrcodeKeepsTheFirstError := by
  intro s t hstep hchange
  obtain ⟨rest, hin, rfl⟩ | ⟨cw, rest, hin, hidle, haccept⟩ | hsame | hsame := step_engine_cases hstep
  case inl => exact .inl ⟨rfl, rest, hin⟩
  case inr.inl =>
    refine .inr ⟨cw, rest, hin, hidle, ?_⟩
    have hfirst {e : EngineError} (h : t = raiseError e { s with inputs := rest }) : s.errcode = 0 := by
      by_contra hne
      exact hchange (by rw [h, raiseError_eq]; exact if_neg hne)
    obtain ⟨⟨err, hdecode⟩, ht⟩ | ⟨i, hdecode, heffect⟩ := acceptWord_cases haccept
    · exact .inr ⟨hfirst ht, by simp [hdecode]⟩
    · cases heffect with
      | clrerr => exact .inl ⟨rfl, hdecode⟩
      | error e hcheck =>
        refine .inr ⟨hfirst rfl, ?_⟩
        cases i with
        | push | finish => simp [hdecode]
        | nop | init | clrerr => cases hcheck
      | nop | init | startPush | startFinish => exact absurd rfl hchange
      | push bytes => exact absurd (pushEffect_errcode bytes _) hchange
      | finish => exact absurd (finalize_errcode _) hchange
  case inr.inr.inl => rw [hsame] at hchange; exact absurd rfl hchange
  case inr.inr.inr => rw [hsame] at hchange; exact absurd (busyStep_errcode _ s) hchange

end Sys2Proof.Steps
end

section
/-! PROOFS. What every step keeps (R119, R657, R803, R911): the safe states and the law of the digest registers, in the engine's own
steps and in the acceptance of a word; that a safe state never stops; and the statements that follow. -/

namespace Sys2Proof.Safety

open Sys2Proof.Machine Sys2Proof.Commands Sys2Proof.Padding Sys2Proof.Encoding Sys2Proof.Invariant Sys2Proof.Steps

/-! ### Accepting a word keeps the safe states -/

theorem safeState_raiseError (e : EngineError) (s : State) : safeState (raiseError e s) = safeState s := by
  rw [raiseError_eq]
  rfl

/-- An engine at IDLE with nothing counted is safe, whatever the buffer holds. -/
theorem safeState_of_fresh {s : State} (hidle : s.fsm = .idle) (hdone : s.done = false) (hwf : Memory.wf s.pending = true)
    (hblocks : s.completedBlocks = 0) (hnp : s.numPending = 0) : safeState s = true := by
  refine (safeState_idle_iff hidle).mpr ⟨hwf, ?_⟩
  rw [if_neg (by simp [hdone]), totalBytes, hblocks, hnp]
  exact Nat.zero_le _

theorem safeState_pushEffect {bytes : List Byte} {s : State} (hidle : s.fsm = .idle) (hwf : Memory.wf s.pending = true)
    (hdone : s.done = false) (hroom : totalBytes s + bytes.length ≤ Config.maxMessageBytes) :
    safeState (pushEffect bytes s) = true := by
  refine (safeState_idle_iff (by simpa using hidle)).mpr ⟨appendBytes_wf bytes s hwf, ?_⟩
  rw [if_neg (by simp [hdone]), totalBytes_pushEffect bytes s hroom]
  exact hroom

/-- R655: FINISH leaves whole blocks, one at least, of the message and its padding. -/
theorem paddedTotal_finalize {s : State} (hlimit : totalBytes s ≤ Config.maxMessageBytes) : paddedTotal (finalize s) = true := by
  have hnp : (finalize s).numPending = 0 := appendBytes_paddingBytes_numPending s
  have hblocks := finalize_completedBlocks hlimit
  have hlt := zeroCount_lt (totalBytes s)
  rw [paddingBytes_length] at hblocks
  have hnp0 : (finalize s).numPending.toNat = 0 := by rw [hnp]; rfl
  refine (paddedTotal_iff _).mpr ⟨hnp, ?_, ?_⟩
  · have hfilled := add_zeroCount_mod (totalBytes s)
    omega
  · rw [totalBytes, hnp0]
    omega

/-- R601 to R607, R703: from a launch state every command leads to a safe state, at either level. -/
theorem safeState_of_commandEffect {i : Instr} {s t : State} (hlaunch : launchState s = true) (hi : i.wf = true)
    (heffect : CommandEffect s i t) : safeState t = true := by
  obtain ⟨hidle, hsafe⟩ := (launchState_iff s).mp hlaunch
  obtain ⟨hwf, hcount⟩ := (safeState_idle_iff hidle).mp hsafe
  cases heffect with
  | error e => rwa [safeState_raiseError]
  | nop => exact hsafe
  | init => exact safeState_of_fresh hidle rfl hwf rfl rfl
  | clrerr => exact hsafe
  | push bytes hdone hroom => exact safeState_pushEffect hidle hwf hdone hroom
  | finish hdone =>
    rw [if_neg (by simp [hdone])] at hcount
    exact (safeState_idle_iff (by simpa using hidle)).mpr ⟨appendBytes_wf _ s hwf, paddedTotal_finalize hcount⟩
  | startPush bytes hdone hroom =>
    obtain ⟨hpos, hle⟩ : 1 ≤ bytes.length ∧ bytes.length ≤ 4 := by simpa [Instr.wf] using hi
    exact (safeState_append_iff rfl).mpr ⟨hwf, hdone, rfl, List.ne_nil_of_length_pos hpos, hle, hroom⟩
  | startFinish hdone =>
    rw [if_neg (by simp [hdone])] at hcount
    refine (safeState_pad_iff rfl).mpr ⟨hwf, hdone, rfl, (padProgress_iff _ _).mpr ?_⟩
    have hL : (startFinish s).L.toNat = totalBytes s * 8 := messageBits_toNat hcount
    rw [hL, Nat.mul_div_cancel _ (by decide)]
    exact ⟨Nat.mul_mod_left _ 8, rfl⟩

theorem safeState_of_acceptWord {cw : CommandWord} {s t : State} (hlaunch : launchState s = true)
    (haccept : acceptWord cw s = .next t) : safeState t = true := by
  obtain ⟨-, rfl⟩ | ⟨i, hdecode, heffect⟩ := acceptWord_cases haccept
  · rw [safeState_raiseError]
    exact ((launchState_iff s).mp hlaunch).2
  · exact safeState_of_commandEffect hlaunch (wf_of_decode hdecode) heffect

theorem safeState_resetEngine {s : State} (hsafe : safeState s = true) : safeState (resetEngine s) = true := by
  refine safeState_of_fresh rfl rfl ?_ rfl rfl
  simp only [safeState, Bool.and_eq_true] at hsafe
  exact hsafe.1

theorem launchState_inputs (s : State) (moves : List HostMove) :
    launchState { s with inputs := moves } = launchState s := rfl

/-! ### A safe state never stops (R807) -/

/-- A busy engine stops only where no rule applies. -/
theorem stopReason_of_busy {s : State} (hbusy : s.fsm ≠ .idle) (hrule : microStuck s = false) : stopReason s = none := by
  simp [stopReason, lengthBroken, busy, hbusy, hrule]

/-- In a safe state a rule of R653, R704 or R708 applies, and the message is within its limit. -/
theorem stopReason_of_safeState {s : State} (hsafe : safeState s = true) : stopReason s = none := by
  cases hfsm : s.fsm with
  | idle => exact stopReason_of_launchState ((launchState_iff s).mpr ⟨hfsm, hsafe⟩)
  | append =>
    obtain ⟨-, -, -, hne, -⟩ := (safeState_append_iff hfsm).mp hsafe
    exact stopReason_of_busy (by simp [hfsm]) (by simp [microStuck, hfsm, hne])
  | pad =>
    obtain ⟨-, -, -, hprogress⟩ := (safeState_pad_iff hfsm).mp hsafe
    obtain ⟨hnone, hzero⟩ := padRule_of_padProgress hprogress
    exact stopReason_of_busy (by simp [hfsm]) (by simpa [microStuck, hfsm, hnone] using hzero)
  | feedback =>
    have hmode : s.mode ≠ .none := by
      obtain ⟨-, -, -, ⟨h, -⟩ | ⟨h, -⟩⟩ := (safeState_compressing_iff (.inr (.inr hfsm))).mp hsafe <;> simp [h]
    exact stopReason_of_busy (by simp [hfsm]) (by simp [microStuck, hfsm, hmode])
  | load | round | capture => exact stopReason_of_busy (by simp [hfsm]) (by simp [microStuck, hfsm])

/-! ### What the counters can hold -/

/-- R102, R803: no safe state counts more bytes than the longest message with its padding. -/
theorem totalBytes_le_of_safeState {s : State} (hsafe : safeState s = true) : totalBytes s ≤ Config.maxMessageBytes + 72 := by
  have hcompressing (h : compressing s) : totalBytes s ≤ Config.maxMessageBytes + 72 := by
    obtain ⟨-, -, hgo⟩ := (safeState_compressing_iff h).mp hsafe
    exact Nat.le_of_succ_le (canContinue_bound hgo)
  cases hfsm : s.fsm with
  | idle =>
    obtain ⟨-, hcount⟩ := (safeState_idle_iff hfsm).mp hsafe
    split at hcount
    · exact ((paddedTotal_iff s).mp hcount).2.2
    · omega
  | append =>
    obtain ⟨-, -, -, -, -, hroom⟩ := (safeState_append_iff hfsm).mp hsafe
    omega
  | pad =>
    obtain ⟨-, hdone, hmode, hprogress⟩ := (safeState_pad_iff hfsm).mp hsafe
    exact canContinue_bound ⟨hdone, .inr ⟨hmode, hprogress⟩⟩
  | load => exact hcompressing (.inl hfsm)
  | round => exact hcompressing (.inr (.inl hfsm))
  | feedback => exact hcompressing (.inr (.inr hfsm))
  | capture =>
    obtain ⟨-, -, -, hpadded⟩ := (safeState_capture_iff hfsm).mp hsafe
    exact ((paddedTotal_iff s).mp hpadded).2.2

/-- R651, R655: whole blocks within the bound are a message within the limit and its padding: one whose last block holds 55 of its
bytes, but for one block past `2^55`, where the longest message stands alone. -/
theorem exists_message_of_blocks {blocks : Nat} (hpos : 1 ≤ blocks) (hbound : blocks * 64 ≤ Config.maxMessageBytes + 72) :
    ∃ N, N ≤ Config.maxMessageBytes ∧ ∀ L : BitVec 64, blocks * 64 = N + (paddingBytes N L).length := by
  rw [Config.maxMessageBytes] at hbound ⊢
  by_cases hlast : blocks ≤ 2 ^ 55
  · refine ⟨blocks * 64 - 9, by omega, fun L => ?_⟩
    rw [length_paddingBytes_eq_ite, if_pos (by omega)]
    omega
  · refine ⟨2 ^ 61 - 1, Nat.le_refl _, fun L => ?_⟩
    rw [length_paddingBytes_eq_ite, if_neg (by decide)]
    omega

/-! ### The law of the digest registers (R657, R907) -/

/-- In the ACCEPT phase the law is about the digest alone. -/
theorem digestLaw_of_not_done {s : State} (h : s.done = false) : digestLaw s ↔ s.digest = Vector.replicate 8 0 := by
  simp [digestLaw, h]

theorem digestLaw_of_done {s : State} (h : s.done = true) :
    digestLaw s ↔ s.fsm = .idle ∧ s.digest = s.state ∧ s.numPending = 0 := by
  simp [digestLaw, h]

theorem digestLaw_raiseError (e : EngineError) (s : State) : digestLaw (raiseError e s) ↔ digestLaw s := by
  rw [raiseError_eq]
  rfl

theorem digestLaw_of_commandEffect {i : Instr} {s t : State} (hidle : s.fsm = .idle) (hlaw : digestLaw s)
    (heffect : CommandEffect s i t) : digestLaw t := by
  cases heffect with
  | error e => exact (digestLaw_raiseError e s).mpr hlaw
  | nop => exact hlaw
  | clrerr => exact hlaw
  | init => exact (digestLaw_of_not_done rfl).mpr rfl
  | push bytes hdone =>
    rw [digestLaw_of_not_done (by simpa using hdone), pushEffect_digest]
    exact (digestLaw_of_not_done hdone).mp hlaw
  | finish =>
    exact (digestLaw_of_done rfl).mpr ⟨by simpa using hidle, finalize_digest s, appendBytes_paddingBytes_numPending s⟩
  | startPush _ hdone | startFinish hdone =>
    rw [digestLaw_of_not_done hdone] at hlaw
    exact (digestLaw_of_not_done (by exact hdone)).mpr hlaw

/-- Outside IDLE a safe state is in the ACCEPT phase. -/
theorem done_of_safeState_busy {s : State} (hbusy : s.fsm ≠ .idle) (hsafe : safeState s = true) : s.done = false := by
  have hcompressing (h : compressing s) : s.done = false := ((safeState_compressing_iff h).mp hsafe).2.2.1
  cases hfsm : s.fsm with
  | idle => exact absurd hfsm hbusy
  | append => exact ((safeState_append_iff hfsm).mp hsafe).2.1
  | pad => exact ((safeState_pad_iff hfsm).mp hsafe).2.1
  | load => exact hcompressing (.inl hfsm)
  | round => exact hcompressing (.inr (.inl hfsm))
  | feedback => exact hcompressing (.inr (.inr hfsm))
  | capture => exact ((safeState_capture_iff hfsm).mp hsafe).2.1

/-- R656, R708: CAPTURE makes the digest the chaining value; before it a micro-step leaves the digest at 0. -/
theorem digestLaw_busyStep (r : Nat) {s : State} (hsafe : safeState s = true) (hlaw : digestLaw s) :
    digestLaw (busyStep r s) := by
  by_cases hidle : s.fsm = .idle
  · rwa [busyStep_idle r hidle]
  have hdone := done_of_safeState_busy hidle hsafe
  by_cases hcapture : s.fsm = .capture
  · obtain ⟨-, -, -, hpadded⟩ := (safeState_capture_iff hcapture).mp hsafe
    have hstep : busyStep r s = captureStep s := by simp only [busyStep, hcapture]
    rw [hstep, digestLaw_of_done (captureStep_done s)]
    exact ⟨captureStep_fsm s, captureStep_digest s, ((paddedTotal_iff s).mp hpadded).1⟩
  · obtain ⟨hkeep, hdigest⟩ := busyStep_done_digest r hcapture
    rw [digestLaw_of_not_done (hkeep.trans hdone), hdigest]
    exact (digestLaw_of_not_done hdone).mp hlaw

/-! ### The statements -/

/-- Settles O47: a reset and the acceptance of a word lead to safe states, and every micro-step keeps them. -/
theorem everyStepKeepsSafeStates : Obligations.EveryStepKeepsSafeStates := by
  intro s t hsafe hstep
  obtain ⟨rest, -, rfl⟩ | ⟨cw, rest, -, hidle, haccept⟩ | hsame | hsame := step_engine_cases hstep
  · exact safeState_resetEngine (s := { s with inputs := rest }) hsafe
  · exact safeState_of_acceptWord (s := { s with inputs := rest }) ((launchState_iff s).mpr ⟨hidle, hsafe⟩) haccept
  · rw [hsame.safeState_eq]
    exact hsafe
  · rw [hsame.safeState_eq]
    exact safeState_busyStep _ hsafe

/-- Settles O48: neither reason to stop arises in a safe state. -/
theorem safeStatesNeverStop : Obligations.SafeStatesNeverStop := fun _ hsafe => step_next (stopReason_of_safeState hsafe)

/-- Settles O12: the step is the engine's own, which keeps the host's moves and does not look at them. -/
theorem presentedWordHeldWhileBusy : Obligations.PresentedWordHeldWhileBusy := by
  intro s cw rest hsafe hbusy hin
  have hrun := stopReason_of_safeState hsafe
  refine ⟨engineStep s, step_present_of_busy hrun hin hbusy, busyStep_inputs _ s, busyStep_errcode _ s, ?_⟩
  rw [step_nil (s := { s with inputs := [] }) hrun rfl]
  have hside := busyStep_hostSide Config.roundsPerStep s [] s.rdata s.draws
  simpa [engineStep] using hside

/-- Settles O46: the engine after reset is at IDLE, has counted nothing and holds a digest of 0. -/
theorem resetStateIsSafe : Obligations.ResetStateIsSafe :=
  ⟨(launchState_iff _).mpr ⟨rfl, safeState_of_fresh rfl rfl reset_pending_wf rfl rfl⟩, (digestLaw_of_not_done rfl).mpr rfl⟩

/-- Settles O50: every way a step can move the engine keeps the law. -/
theorem everyStepKeepsTheDigestLaw : Obligations.EveryStepKeepsTheDigestLaw := by
  intro s t hsafe hlaw hstep
  obtain ⟨rest, -, rfl⟩ | ⟨cw, rest, -, hidle, haccept⟩ | hsame | hsame := step_engine_cases hstep
  · exact (digestLaw_of_not_done rfl).mpr rfl
  · obtain ⟨-, rfl⟩ | ⟨i, -, heffect⟩ := acceptWord_cases haccept
    · exact (digestLaw_raiseError _ { s with inputs := rest }).mpr hlaw
    · exact digestLaw_of_commandEffect (s := { s with inputs := rest }) hidle hlaw heffect
  · exact hsame.digestLaw_iff.mpr hlaw
  · exact hsame.digestLaw_iff.mpr (digestLaw_busyStep _ hsafe hlaw)

/-- Settles O51: the bytes counted are at most those of the longest message with its padding. -/
theorem blockCounterStaysBelowItsModulus : Obligations.BlockCounterStaysBelowItsModulus := by
  intro s hsafe
  have hbound := totalBytes_le_of_safeState hsafe
  rw [totalBytes, Config.maxMessageBytes] at hbound
  omega

/-- Settles O53: in the DONE phase the whole blocks counted are a message and its padding. -/
theorem safeBoundaryCountsMessageAndPadding : Obligations.SafeBoundaryCountsMessageAndPadding := by
  intro s hsafe hidle
  obtain ⟨-, hcount⟩ := (safeState_idle_iff hidle).mp hsafe
  refine ⟨fun hdone => ?accepting, fun hdone => ?finished⟩
  case accepting =>
    rw [if_neg (by simp [hdone])] at hcount
    exact hcount
  case finished =>
    rw [if_pos hdone] at hcount
    obtain ⟨hnp, hpos, hbound⟩ := (paddedTotal_iff s).mp hcount
    have hnp0 : s.numPending.toNat = 0 := by rw [hnp]; rfl
    rw [totalBytes, hnp0, Nat.add_zero] at hbound
    rw [hnp0, Nat.add_zero]
    exact ⟨hnp, hpos, exists_message_of_blocks hpos hbound⟩

end Sys2Proof.Safety
end

section
/-! PROOFS. What a list of appended bytes does to the chaining value and the buffer (R602, R605, R654): the valid bytes and the
appended ones, block by block; the frame of PUSH; and the statements that follow. -/

namespace Sys2Proof.Hashing

open Sys2Proof.Machine Sys2Proof.Commands Sys2Proof.Padding

/-! ### Whole blocks of a byte sequence (R550) -/

theorem wholeBlocks_of_length_lt {bytes : List Byte} (h : bytes.length < 64) : wholeBlocks bytes = [] := by
  rw [wholeBlocks, Nat.div_eq_of_lt h, takeBlocks]

theorem wholeBlocks_append {block rest : List Byte} (h : block.length = 64) :
    wholeBlocks (block ++ rest) = block :: wholeBlocks rest := by
  have hcount : (block ++ rest).length / 64 = rest.length / 64 + 1 := by
    rw [List.length_append, h]
    omega
  rw [wholeBlocks, hcount, takeBlocks, ← h, List.take_left, List.drop_left, h, wholeBlocks]

@[simp] theorem length_validBytes (s : State) : (validBytes s).length = s.numPending.toNat := memRead_length _ _ _

/-- R602: appending compresses the whole blocks of the valid bytes and the appended ones, in order. -/
theorem appendBytes_state (bytes : List Byte) (s : State) :
    (appendBytes bytes s).state = compressAll s.state (wholeBlocks (validBytes s ++ bytes)) := by
  induction bytes generalizing s with
  | nil =>
    rw [List.append_nil, wholeBlocks_of_length_lt (by rw [length_validBytes]; exact s.numPending.isLt)]
    rfl
  | cons b rest ih =>
    rw [appendBytes_cons, ih, List.append_cons]
    by_cases hfull : s.numPending = 63
    · obtain ⟨hstate, -, -, hvalid⟩ := sameContext_appendByte_of_eq hfull b
      have hblock : (validBytes s ++ [b]).length = 64 := by
        rw [List.length_append, length_validBytes, hfull]
        rfl
      have hempty : validBytes (compressed (validBytes s ++ [b]) s) = [] := validBytes_of_numPending_eq_zero rfl
      rw [hstate, hvalid, hempty, List.nil_append, wholeBlocks_append hblock]
      rfl
    · rw [validBytes_appendByte hfull, appendByte_of_ne hfull]
      rfl

/-- R654, R656: what FINISH leaves in the chaining value. -/
theorem finalize_state (s : State) :
    (finalize s).state =
      compressAll s.state (wholeBlocks (validBytes s ++ paddingBytes (totalBytes s) (messageBits s))) :=
  appendBytes_state _ s

/-! ### SHA-256 of a message (R309, R655) -/

theorem runInstrs_append {is js : List Instr} {s t : State} (h : runInstrs is s = .next t) :
    runInstrs (is ++ js) s = runInstrs js t := by
  induction is generalizing s with
  | nil =>
    obtain rfl := Host.Outcome.next.inj h
    rfl
  | cons i is ih =>
    obtain ⟨u, hu⟩ := exec_next i s
    rw [runInstrs_cons is hu] at h
    rw [List.cons_append, runInstrs_cons _ hu, ih h]

/-- R309, R610: UPDATE in the ACCEPT phase appends its bytes, so that bytes appended after it follow them. -/
theorem exists_runInstrs_update {bytes : List Byte} {s : State} (hdone : s.done = false)
    (hroom : totalBytes s + bytes.length ≤ Config.maxMessageBytes) :
    ∃ u, runInstrs (update bytes) s = .next u ∧ u.done = false ∧ u.errcode = s.errcode ∧
      totalBytes u = totalBytes s + bytes.length ∧
      ∀ more, (appendBytes more u).state = (appendBytes (bytes ++ more) s).state := by
  by_cases hnil : bytes = []
  · subst hnil
    exact ⟨s, rfl, hdone, rfl, rfl, fun _ => rfl⟩
  · refine ⟨_, runInstrs_update hnil hdone hroom, by simpa using hdone, pushEffect_errcode bytes s,
      totalBytes_pushEffect bytes s hroom, fun more => ?_⟩
    rw [pushEffect, appendBytes_mode_inq, appendBytes_append]

/-! ### The frame of a PUSH (R605) -/

/-- A PUSH of some bytes that completes no block changes the buffer and `num_pending`. -/
theorem pushEffect_frame_of_lt {bytes : List Byte} {s : State} (h : s.numPending.toNat + bytes.length < 64) :
    pushEffect bytes s = { s with
      pending := (pushEffect bytes s).pending, numPending := (pushEffect bytes s).numPending
      mode := (pushEffect bytes s).mode, inq := (pushEffect bytes s).inq } := by
  rw [pushEffect, appendBytes_eq_bufferRest bytes h]
  rfl

/-- R602: what AppendByte leaves alone. -/
theorem appendByte_frame (s : State) (b : Byte) :
    appendByte s b = { s with
      state := (appendByte s b).state, completedBlocks := (appendByte s b).completedBlocks
      pending := (appendByte s b).pending, numPending := (appendByte s b).numPending
      w := (appendByte s b).w, working := (appendByte s b).working, t := (appendByte s b).t } := by
  obtain ⟨-, heq⟩ | ⟨-, heq⟩ := appendByte_cases s b <;> rw [heq] <;> rfl

theorem appendBytes_frame (bytes : List Byte) (s : State) :
    appendBytes bytes s = { s with
      state := (appendBytes bytes s).state, completedBlocks := (appendBytes bytes s).completedBlocks
      pending := (appendBytes bytes s).pending, numPending := (appendBytes bytes s).numPending
      w := (appendBytes bytes s).w, working := (appendBytes bytes s).working, t := (appendBytes bytes s).t } := by
  induction bytes generalizing s with
  | nil => rfl
  | cons b rest ih =>
    rw [appendBytes_cons, ih, appendByte_frame s b]

/-- R102: bytes that complete one block count it. -/
theorem completedBlocks_appendBytes_of_one_block {bytes : List Byte} {s : State}
    (hroom : totalBytes s + bytes.length ≤ Config.maxMessageBytes) (hfull : 64 ≤ s.numPending.toNat + bytes.length)
    (hone : s.numPending.toNat + bytes.length < 128) :
    (appendBytes bytes s).completedBlocks.toNat = s.completedBlocks.toNat + 1 := by
  have htotal := totalBytes_appendBytes bytes s (by unfold Config.maxMessageBytes at hroom; omega)
  have hnp := appendBytes_numPending bytes s
  rw [totalBytes, totalBytes] at htotal
  omega

/-! ### The statements -/

/-- Settles O19: within a block AppendByte only stores and counts. -/
theorem pushWithinABlock : Obligations.PushWithinABlock := by
  intro s bytes hdone hroom hfit
  have haddr {k : Nat} (hk : k < bytes.length) : (s.numPending.toNat + k) % 64 = s.numPending.toNat + k :=
    Nat.mod_eq_of_lt (by omega)
  refine ⟨_, exec_push_of_room hdone hroom, pushEffect_frame_of_lt hfit, ?_, fun k hk => ?_, fun a ha => ?_⟩
  · exact (appendBytes_numPending bytes s).trans (Nat.mod_eq_of_lt hfit)
  · rw [← haddr hk]
    exact memLookup_appendBytes hk (by omega)
  · exact memLookup_appendBytes_other fun k hk => (haddr hk).symm ▸ ha k hk

/-- Settles O20: of the at most 67 bytes that stand in the buffer and the PUSH the first 64 are the block. -/
theorem pushCompletingABlock : Obligations.PushCompletingABlock := by
  intro s bytes hwf hdone hroom hfull
  obtain ⟨-, hle⟩ : 1 ≤ bytes.length ∧ bytes.length ≤ 4 := by simpa [Instr.wf] using hwf
  have hlt := s.numPending.isLt
  refine ⟨_, exec_push_of_room hdone hroom, ?frame, ?value, ?count, ?pending, fun k hk => memLookup_appendBytes hk (by omega),
    fun a ha => memLookup_appendBytes_other ha⟩
  case frame =>
    rw [pushEffect, appendBytes_frame]
  case value =>
    have hblock : (validBytes s ++ bytes.take (64 - s.numPending.toNat)).length = 64 := by
      rw [List.length_append, length_validBytes, List.length_take]
      omega
    have hsplit : validBytes s ++ bytes =
        (validBytes s ++ bytes.take (64 - s.numPending.toNat)) ++ bytes.drop (64 - s.numPending.toNat) := by
      rw [List.append_assoc, List.take_append_drop]
    have hrest : wholeBlocks (bytes.drop (64 - s.numPending.toNat)) = [] :=
      wholeBlocks_of_length_lt (by rw [List.length_drop]; omega)
    refine (appendBytes_state bytes s).trans ?_
    rw [hsplit, wholeBlocks_append hblock, hrest]
    rfl
  case count => exact completedBlocks_appendBytes_of_one_block hroom hfull (by omega)
  case pending =>
    have hnp : (pushEffect bytes s).numPending.toNat = _ := appendBytes_numPending bytes s
    omega

/-- Settles O24: FINISH captures the chaining value that appending the padding leaves. -/
theorem finishDigestsThePaddedTail : Obligations.FinishDigestsThePaddedTail := fun s hdone _ =>
  ⟨finalize s, exec_finish_of_not_done hdone, (finalize_digest s).trans (finalize_state s)⟩

/-- Settles O32: INIT, UPDATE and FINISH append the message and its padding to an empty buffer and `ROM_IV`. -/
theorem hashComputesSha256 : Obligations.HashComputesSha256 := by
  intro msg s hlimit
  have hfresh : totalBytes (initContext s) + msg.length = msg.length := Nat.zero_add _
  obtain ⟨u, hupdate, hdone, herr, htotal, happend⟩ :=
    exists_runInstrs_update (bytes := msg) (initContext_done s) (hfresh.trans_le hlimit)
  rw [hfresh] at htotal
  refine ⟨finalize u, ?run, ?digest, rfl, appendBytes_paddingBytes_numPending u, (finalize_errcode u).trans herr, ?count⟩
  case run =>
    rw [Machine.hash, runInstrs_cons _ (exec_init s), runInstrs_append hupdate,
      runInstrs_cons [] (exec_finish_of_not_done hdone), runInstrs]
  case digest =>
    have hvalid : validBytes (initContext s) = [] := validBytes_of_numPending_eq_zero rfl
    calc (finalize u).digest
        = (appendBytes (paddingBytes (totalBytes u) (messageBits u)) u).state := rfl
      _ = (appendBytes (paddedMessage msg) (initContext s)).state := by rw [happend, messageBits, htotal, paddedMessage]
      _ = sha256 msg := by rw [appendBytes_state, hvalid]; rfl
  case count =>
    rw [finalize_completedBlocks (htotal.trans_le hlimit), messageBits, htotal, paddedMessage, List.length_append]

end Sys2Proof.Hashing
end

section
/-! PROOFS. The read port and the command port (R115 to R118, R210, R213, R816): what a read sees and leaves, what the port shows before
FINISH, that presented words are performed in order, and the statements that follow. -/

namespace Sys2Proof.Ports

open Sys2Proof.Machine Sys2Proof.Commands Sys2Proof.Encoding Sys2Proof.Steps Sys2Proof.Safety Sys2Proof.Hashing

/-! ### The read port at BUSY = 0 (R115 to R118) -/

theorem readPort_of_idle {s : State} (h : s.fsm = .idle) (draw : Nat) (addr : BitVec 4) :
    readPort draw s addr = registerRead s addr := by
  simp [readPort, busy, h]

section
variable (s : State)

/-- R115: the fields of STATUS, from bit 1 up. -/
theorem statusWord_done : (statusWord s).getLsbD 1 = s.done := by
  cases h : s.done <;> simp only [statusWord, h, BitVec.getLsbD_append] <;> rfl

theorem statusWord_errcode : (statusWord s).extractLsb' 2 2 = s.errcode := by
  simp only [statusWord, BitVec.extractLsb'_append_eq_ite]
  simp

theorem statusWord_reserved_low : (statusWord s).extractLsb' 4 4 = 0 := by
  simp only [statusWord, BitVec.extractLsb'_append_eq_ite]
  simp

theorem statusWord_numPending : (statusWord s).extractLsb' 8 6 = s.numPending := by
  simp only [statusWord, BitVec.extractLsb'_append_eq_ite]
  simp

theorem statusWord_reserved_high : (statusWord s).extractLsb' 14 18 = 0 := by
  simp only [statusWord, BitVec.extractLsb'_append_eq_ite]
  simp

/-- R118: the addresses 3 to 7 are reserved. -/
theorem registerRead_reserved {a : BitVec 4} (hlo : 3 ≤ a.toNat) (hhi : a.toNat ≤ 7) : registerRead s a = 0 := by
  rw [registerRead, if_neg (by omega), if_neg (by omega), if_neg (by omega), if_pos (by omega)]

/-- R117: DIGESTi stands at address 8 + i. -/
theorem registerRead_digestAddr (i : Fin 8) : registerRead s (digestAddr i) = s.digest[i] := by
  have haddr : (digestAddr i).toNat = 8 + i.val := by
    rw [digestAddr, BitVec.toNat_ofNat]
    omega
  rw [registerRead, haddr, if_neg (by omega), if_neg (by omega), if_neg (by omega), if_neg (by omega), digestWord,
    Nat.add_sub_cancel_left]
  simp

end

/-! ### Reads (R210, R910) -/

/-- R210: a read in a safe state changes the host's side alone. -/
theorem step_read_of_safeState {s : State} {addr : BitVec 4} {rest : List HostMove} (hsafe : safeState s = true)
    (hin : s.inputs = .read addr :: rest) :
    step s = .next { s with inputs := rest, rdata := readPort s.draws s addr, draws := s.draws + 1 } :=
  step_read (stopReason_of_safeState hsafe) hin

/-- R910: reads one after the other leave the engine where it is; the last one has delivered its value. -/
theorem run_reads {s : State} (hsafe : safeState s = true) (addrs : List (BitVec 4)) {rest : List HostMove}
    (hin : s.inputs = addrs.map HostMove.read ++ rest) :
    ∃ t : State, Host.Core.run core addrs.length s = .next t ∧
      t = { s with inputs := rest, rdata := t.rdata, draws := s.draws + addrs.length } ∧
      ∀ before addr, addrs = before ++ [addr] → t.rdata = readPort (s.draws + before.length) s addr := by
  induction addrs using List.reverseRecOn generalizing rest with
  | nil =>
    obtain rfl : rest = s.inputs := hin.symm
    exact ⟨s, rfl, rfl, fun before addr h => by simp at h⟩
  | append_singleton before addr ih =>
    rw [List.map_append, List.append_assoc] at hin
    obtain ⟨t, hrun, ht, -⟩ := ih hin
    have hread := step_read_of_safeState (s := t) (addr := addr) (rest := rest) (by rw [ht]; exact hsafe) (by rw [ht]; rfl)
    rw [List.length_append, List.length_singleton]
    refine ⟨_, (run_add _ 1 hrun).trans (run_succ 0 hread), ?_, fun before' addr' h => ?_⟩
    · rw [ht]
      rfl
    · obtain ⟨rfl, haddr⟩ := List.append_inj' h rfl
      obtain rfl : addr = addr' := by simpa using haddr
      rw [ht]
      rfl

/-! ### What the port shows before FINISH (R101, R816) -/

/-- The two states agree in all but the chaining value, the pending bytes and the datapath registers `w` and `a..h`. -/
def SameButHidden (s' s : State) : Prop :=
  s' = { s with state := s'.state, pending := s'.pending, w := s'.w, working := s'.working }

/-- R118: the port shows none of the registers left out. -/
theorem SameButHidden.readAll_eq {s' s : State} (h : SameButHidden s' s) : readAll s' = readAll s := by
  rw [h]
  rfl

theorem sameButHidden_appendBytes (bytes : List Byte) {s' s : State} (h : SameButHidden s' s) :
    SameButHidden (appendBytes bytes s') (appendBytes bytes s) := by
  induction bytes generalizing s' s with
  | nil => exact h
  | cons b rest ih =>
    refine ih ?_
    rw [h]
    unfold appendByte
    dsimp only
    split <;> rfl

theorem sameButHidden_raiseError (e : EngineError) {s' s : State} (h : SameButHidden s' s) :
    SameButHidden (raiseError e s') (raiseError e s) := by
  rw [raiseError_eq, raiseError_eq, h]
  rfl

/-- No command but FINISH moves the registers left out into view. -/
theorem sameButHidden_exec {i : Instr} (hi : i ≠ .finish) {s' s t : State} (h : SameButHidden s' s) (hexec : exec i s = .next t) :
    ∃ t', exec i s' = .next t' ∧ SameButHidden t' t := by
  have hcheck (n : Nat) : checkPush n s' = checkPush n s := by
    rw [h]
    rfl
  cases i with
  | finish => exact absurd rfl hi
  | nop =>
    obtain rfl := Host.Outcome.next.inj hexec
    exact ⟨s', rfl, h⟩
  | init =>
    obtain rfl := Host.Outcome.next.inj hexec
    exact ⟨_, exec_init s', by rw [h]; rfl⟩
  | clrerr =>
    obtain rfl := Host.Outcome.next.inj hexec
    exact ⟨_, exec_clrerr s', by rw [h]; rfl⟩
  | push bytes =>
    obtain rfl := Host.Outcome.next.inj ((exec_push bytes s).symm.trans hexec)
    refine ⟨_, exec_push bytes s', ?_⟩
    rw [hcheck]
    cases checkPush bytes.length s with
    | some e => exact sameButHidden_raiseError e h
    | none =>
      show SameButHidden (pushEffect bytes s') (pushEffect bytes s)
      have happend := sameButHidden_appendBytes bytes h
      rw [pushEffect, pushEffect, happend]
      rfl

theorem sameButHidden_runInstrs {is : List Instr} (his : ∀ i, i ∈ is → i ≠ .finish) {s' s t : State} (h : SameButHidden s' s)
    (hrun : runInstrs is s = .next t) : ∃ t', runInstrs is s' = .next t' ∧ SameButHidden t' t := by
  induction is generalizing s' s with
  | nil =>
    obtain rfl := Host.Outcome.next.inj hrun
    exact ⟨s', rfl, h⟩
  | cons i is ih =>
    obtain ⟨u, hu⟩ := exec_next i s
    obtain ⟨u', hu', hsame⟩ := sameButHidden_exec (his i List.mem_cons_self) h hu
    rw [runInstrs_cons is hu] at hrun
    rw [runInstrs_cons is hu']
    exact ih (fun j hj => his j (List.mem_cons_of_mem i hj)) hsame hrun

/-! ### The command port (R213, R600) -/

/-- An update of registers that AppendByte neither reads nor writes can be made before or after it. -/
theorem appendBytes_comm {f : State → State} (hf : ∀ s b, appendByte (f s) b = f (appendByte s b)) (bytes : List Byte)
    (s : State) : appendBytes bytes (f s) = f (appendBytes bytes s) := by
  induction bytes generalizing s with
  | nil => rfl
  | cons b rest ih => rw [appendBytes_cons, hf, ih, appendBytes_cons]

theorem appendBytes_inputs_comm (bytes : List Byte) (s : State) (moves : List HostMove) :
    appendBytes bytes { s with inputs := moves } = { appendBytes bytes s with inputs := moves } := by
  refine appendBytes_comm (f := fun s => { s with inputs := moves }) (fun s b => ?_) bytes s
  unfold appendByte
  dsimp only
  split <;> rfl

theorem pushEffect_inputs_comm (bytes : List Byte) (s : State) (moves : List HostMove) :
    pushEffect bytes { s with inputs := moves } = { pushEffect bytes s with inputs := moves } := by
  rw [pushEffect, appendBytes_inputs_comm, pushEffect]

theorem finalize_inputs_comm (s : State) (moves : List HostMove) :
    finalize { s with inputs := moves } = { finalize s with inputs := moves } := by
  have happend := appendBytes_inputs_comm (paddingBytes (totalBytes s) (messageBits s)) s moves
  show { captureDigest (appendBytes (paddingBytes (totalBytes s) (messageBits s)) { s with inputs := moves }) with
    L := messageBits s, mode := .none, pad := .paddone } = _
  rw [happend]
  rfl

theorem raiseError_inputs_comm (e : EngineError) (s : State) (moves : List HostMove) :
    raiseError e { s with inputs := moves } = { raiseError e s with inputs := moves } := by
  rw [raiseError_eq, raiseError_eq]

/-- A command does not look at the host's moves. -/
theorem exec_inputs {i : Instr} {s t : State} (hexec : exec i s = .next t) (moves : List HostMove) :
    exec i { s with inputs := moves } = .next { t with inputs := moves } := by
  cases i with
  | nop | init | clrerr =>
    obtain rfl := Host.Outcome.next.inj hexec
    rfl
  | push bytes =>
    obtain rfl := Host.Outcome.next.inj ((exec_push bytes s).symm.trans hexec)
    rw [exec_push, show checkPush bytes.length { s with inputs := moves } = checkPush bytes.length s from rfl]
    cases checkPush bytes.length s with
    | some e => exact congrArg _ (raiseError_inputs_comm e s moves)
    | none => exact congrArg _ (pushEffect_inputs_comm bytes s moves)
  | finish =>
    obtain rfl := Host.Outcome.next.inj ((exec_finish s).symm.trans hexec)
    rw [exec_finish, show checkFinish { s with inputs := moves } = checkFinish s from rfl]
    cases checkFinish s with
    | some e => exact congrArg _ (raiseError_inputs_comm e s moves)
    | none => exact congrArg _ (finalize_inputs_comm s moves)

/-- R213: a command performed whole leaves the engine at the boundary it started from, with the same moves ahead. -/
theorem exec_keeps_boundary {i : Instr} {s t : State} (hexec : exec i s = .next t) :
    t.fsm = s.fsm ∧ t.level = s.level ∧ t.inputs = s.inputs := by
  cases i with
  | nop | init | clrerr =>
    obtain rfl := Host.Outcome.next.inj hexec
    exact ⟨rfl, rfl, rfl⟩
  | push bytes =>
    obtain rfl := Host.Outcome.next.inj ((exec_push bytes s).symm.trans hexec)
    cases checkPush bytes.length s <;> simp
  | finish =>
    obtain rfl := Host.Outcome.next.inj ((exec_finish s).symm.trans hexec)
    cases checkFinish s <;> simp

/-- From a launch state an encodable command leads to a launch state. -/
theorem launchState_of_exec {i : Instr} {s t : State} (hlaunch : launchState s = true) (hi : i.wf = true)
    (hexec : exec i s = .next t) : launchState t = true := by
  obtain ⟨hidle, -⟩ := (launchState_iff s).mp hlaunch
  obtain ⟨hfsm, -, -⟩ := exec_keeps_boundary hexec
  exact (launchState_iff t).mpr ⟨hfsm.trans hidle, safeState_of_commandEffect hlaunch hi (commandEffect_of_exec hexec)⟩

/-! ### The statements -/

/-- Settles O7: the read-port values are those after a reset, which leaves the engine after reset as it is. -/
theorem resetStateValues : Obligations.ResetStateValues :=
  ⟨rfl, rfl, rfl, rfl, rfl, rfl, rfl, rfl, rfl, rfl, rfl, Reset.readAll_resetEngine State.reset⟩

/-- Settles O15: at BUSY = 0 the port shows `registerRead`, and bit 0 of STATUS is BUSY at every read. -/
theorem readPortShowsTheRegisters : Obligations.ReadPortShowsTheRegisters := by
  intro s draw
  refine ⟨fun hidle => ?_, fun hbusy => ?_⟩
  · rw [readPort_status_busy]
    simp only [readPort_of_idle hidle, registerRead_status]
    exact ⟨(busy_eq_false_iff s).mpr hidle, statusWord_done s, statusWord_errcode s, statusWord_reserved_low s,
      statusWord_numPending s, statusWord_reserved_high s, rfl, rfl, fun _ => registerRead_reserved s, registerRead_digestAddr s⟩
  · rw [readPort_status_busy]
    exact (busy_eq_true_iff s).mpr hbusy

/-- Settles O14: one read changes the host's side alone, and so do any number, one after the other. -/
theorem readsHaveNoSideEffect : Obligations.ReadsHaveNoSideEffect :=
  ⟨fun _ _ _ hsafe hin => ⟨step_read_of_safeState hsafe hin, fun hidle => readPort_of_idle hidle _ _⟩,
    fun _ addrs _ hsafe hin => run_reads hsafe addrs hin⟩

/-- Settles O28: the two runs keep states that agree in all the port shows. -/
theorem readPortHidesMidStreamState : Obligations.ReadPortHidesMidStreamState := by
  intro is s t v m _ his hrun
  obtain ⟨t', hrun', hsame⟩ := sameButHidden_runInstrs (s' := { s with state := v, pending := m }) his rfl hrun
  exact ⟨t', hrun', hsame.readAll_eq⟩

/-- Settles O33: each step accepts the first word, performs the command it encodes (R308) and leaves a launch state. -/
theorem portPerformsCommandsInOrder : Obligations.PortPerformsCommandsInOrder := by
  intro is s rest hlaunch hlevel hwf hin
  induction is generalizing s with
  | nil =>
    obtain rfl : rest = s.inputs := hin.symm
    rfl
  | cons i is ih =>
    obtain ⟨hi, hall⟩ : i.wf = true ∧ is.all Instr.wf = true := by simpa using hwf
    set moves := is.map (fun i => HostMove.present (encode i)) ++ rest
    obtain ⟨u, hu⟩ := exec_next i s
    have hexec := exec_inputs hu moves
    have hstep : step s = .next { u with inputs := moves } := by
      rw [stepRunsAcceptedCommand s (encode i) moves i hlaunch hlevel hin (decodeEncodeRoundTrip i hi), hexec]
    obtain ⟨-, hkeep, -⟩ := exec_keeps_boundary hu
    rw [List.length_cons, run_succ _ hstep, runInstrs_cons is (exec_inputs hu rest)]
    exact ih _ ((launchState_inputs u moves).trans (launchState_of_exec hlaunch hi hu)) (hkeep.trans hlevel) hall rfl

end Sys2Proof.Ports
end

section
/-! PROOFS. The micro-steps of a compression (R706 to R708, R712), at any number of rounds a step: the state that the compression in
progress leads to and the micro-steps up to it, and that WriteByte with the compression it starts is AppendByte. -/

namespace Sys2Proof.Compressing

open Sys2Proof.Machine Sys2Proof.Commands Sys2Proof.Padding Sys2Proof.Datapath Sys2Proof.Invariant Sys2Proof.Steps
  Sys2Proof.Ports

/-! ### Rounds (R707, R712) -/

theorem roundsStep_add (m n : Nat) (s : State) : roundsStep (m + n) s = roundsStep n (roundsStep m s) := by
  induction m generalizing s with
  | zero => rw [Nat.zero_add, roundsStep]
  | succ m ih =>
    rw [Nat.succ_add, roundsStep, roundsStep]
    split
    · exact ih (roundStep s)
    · exact (roundsStep_of_ne n ‹_›).symm

theorem roundStep_fsm {s : State} (h : s.fsm = .round) :
    (s.t.toNat = 63 ∧ (roundStep s).fsm = .feedback) ∨
    (s.t.toNat < 63 ∧ (roundStep s).fsm = .round ∧ (roundStep s).t.toNat = s.t.toNat + 1) := by
  have hlt := s.t.isLt
  by_cases ht : s.t = 63
  · exact .inl ⟨by rw [ht]; rfl, by simp only [roundStep, if_pos ht]⟩
  · have hne : s.t.toNat ≠ 63 := fun h => ht (BitVec.eq_of_toNat_eq h)
    refine .inr ⟨by omega, by simp only [roundStep, if_neg ht, h], ?_⟩
    have hone : (1 : BitVec 6).toNat = 1 := rfl
    simp only [roundStep, if_neg ht, BitVec.toNat_add, hone]
    omega

/-- `r` rounds either end in FEEDBACK or bring the round counter `r` rounds on. -/
theorem roundsStep_fsm (r : Nat) {s : State} (h : s.fsm = .round) :
    ((roundsStep r s).fsm = .feedback ∧ 64 ≤ s.t.toNat + r) ∨
    ((roundsStep r s).fsm = .round ∧ (roundsStep r s).t.toNat = s.t.toNat + r) := by
  induction r generalizing s with
  | zero => exact .inr ⟨h, rfl⟩
  | succ r ih =>
    rw [roundsStep, if_pos h]
    obtain ⟨ht, hfeedback⟩ | ⟨-, hround, hcount⟩ := roundStep_fsm h
    · rw [roundsStep_of_ne r (by rw [hfeedback]; decide)]
      exact .inl ⟨hfeedback, by omega⟩
    · rw [← Nat.add_assoc, Nat.add_right_comm, ← hcount]
      exact ih hround

/-- 64 rounds complete the compression, whichever round comes next. -/
theorem roundsStep_64_fsm {s : State} (h : s.fsm = .round) : (roundsStep 64 s).fsm = .feedback := by
  obtain ⟨hfeedback, -⟩ | ⟨-, hcount⟩ := roundsStep_fsm 64 h
  · exact hfeedback
  · have hlt := (roundsStep 64 s).t.isLt
    omega

/-- The rounds taken already are not taken again. -/
theorem roundsStep_64_roundsStep (r : Nat) {s : State} (h : s.fsm = .round) :
    roundsStep 64 (roundsStep r s) = roundsStep 64 s := by
  rw [← roundsStep_add, Nat.add_comm, roundsStep_add, roundsStep_of_ne r (by rw [roundsStep_64_fsm h]; decide)]

theorem roundsStep_frame (r : Nat) (s : State) :
    roundsStep r s = { s with
      w := (roundsStep r s).w, working := (roundsStep r s).working, t := (roundsStep r s).t, fsm := (roundsStep r s).fsm } := by
  induction r generalizing s with
  | zero => rfl
  | succ r ih =>
    rw [roundsStep]
    split
    · rw [ih (roundStep s)]
      rfl
    · rfl

/-- Up to 64 rounds after LOAD. -/
theorem roundsStep_afterRounds {h : Vector Word 8} {block : List Byte} (r : Nat) {k : Nat} {s : State}
    (hs : AfterRounds h block k s) (hr : k + r ≤ 64) : AfterRounds h block (k + r) (roundsStep r s) := by
  induction r generalizing k s with
  | zero => exact hs
  | succ r ih =>
    have hk : k < 64 := by omega
    rw [roundsStep, if_pos (by rw [hs.fsm_eq, if_pos hk]), ← Nat.add_assoc, Nat.add_right_comm]
    exact ih (roundStep_afterRounds hs hk) (by omega)

/-- The window after round 63 holds `W[48..63]` (R707). -/
theorem window_eq_of_afterRounds {h : Vector Word 8} {block : List Byte} {s : State} (hs : AfterRounds h block 64 s) :
    s.w = windowOf ((schedule block).drop 48) := by
  refine Vector.ext fun i hi => ?_
  have hword := hs.window (48 + i) (by omega) (by omega) (by omega)
  have hslot : (48 + i) % 16 = i := by omega
  have hdrop : ((schedule block).drop 48).getD i 0 = (schedule block).getD (48 + i) 0 := by
    rw [List.getD_eq_getElem?_getD, List.getElem?_drop, ← List.getD_eq_getElem?_getD]
  have hentry : s.w.toList.getD i 0 = (windowOf ((schedule block).drop 48)).toList.getD i 0 := by
    rw [getD_windowOf _ hi, hdrop, ← hword, hslot]
  simpa [List.getD_eq_getElem?_getD, hi] using hentry

/-- R706 to R708: the micro-steps of a compression do what `compressBlock` does. -/
theorem feedbackStep_roundsStep_loadStep {s : State} (hmode : s.mode ≠ .none) :
    feedbackStep (roundsStep 64 (loadStep s)) =
      { compressBlock (memRead s.pending 0 64) s with numPending := 0, fsm := afterFeedback s } := by
  have hrounds := roundsStep_afterRounds 64 (loadStep_afterRounds s) (Nat.le_refl 64)
  have ht : (roundsStep 64 (loadStep s)).t = 63 := BitVec.eq_of_toNat_eq hrounds.t_eq
  have hafter : roundsStep 64 (loadStep s) = { s with
      w := windowOf ((schedule (memRead s.pending 0 64)).drop 48), working := finalWorking s.state (memRead s.pending 0 64)
      t := 63, fsm := .feedback } := by
    rw [roundsStep_frame, window_eq_of_afterRounds hrounds, hrounds.working_eq, ht, hrounds.fsm_eq]
    rfl
  rw [hafter]
  cases h : s.mode with
  | none => exact absurd h hmode
  | pushing | finishing => simp only [feedbackStep, afterFeedback, h, compressBlock, compressValue]

/-! ### The state after the compression in progress, and the micro-steps up to it -/

/-- The state after the FEEDBACK of the compression in progress; the state itself if there is none. -/
def finishCompression (s : State) : State :=
  match s.fsm with
  | .load => feedbackStep (roundsStep 64 (loadStep s))
  | .round => feedbackStep (roundsStep 64 s)
  | .feedback => feedbackStep s
  | _ => s

/-- The micro-steps of the compression in progress, at one round a step (R711). -/
def compressionSteps (s : State) : Nat :=
  match s.fsm with
  | .load => 66
  | .round => 65 - s.t.toNat
  | .feedback => 1
  | _ => 0

section
variable {s : State}

theorem finishCompression_load (h : s.fsm = .load) : finishCompression s = feedbackStep (roundsStep 64 (loadStep s)) := by
  simp only [finishCompression, h]

theorem finishCompression_round (h : s.fsm = .round) : finishCompression s = feedbackStep (roundsStep 64 s) := by
  simp only [finishCompression, h]

theorem finishCompression_feedback (h : s.fsm = .feedback) : finishCompression s = feedbackStep s := by
  simp only [finishCompression, h]

end

theorem finishCompression_of_not_compressing {s : State} (h : ¬ compressing s) : finishCompression s = s := by
  unfold finishCompression
  split
  case h_1 hfsm => exact absurd (.inl hfsm) h
  case h_2 hfsm => exact absurd (.inr (.inl hfsm)) h
  case h_3 hfsm => exact absurd (.inr (.inr hfsm)) h
  case h_4 => rfl

theorem compressionSteps_of_not_compressing {s : State} (h : ¬ compressing s) : compressionSteps s = 0 := by
  unfold compressionSteps
  split
  case h_1 hfsm => exact absurd (.inl hfsm) h
  case h_2 hfsm => exact absurd (.inr (.inl hfsm)) h
  case h_3 hfsm => exact absurd (.inr (.inr hfsm)) h
  case h_4 => rfl

/-- R708: with a mode FEEDBACK leaves the compression. -/
theorem afterFeedback_not_compressing {s t : State} (hmode : s.mode ≠ .none) (hfsm : t.fsm = afterFeedback s) :
    ¬ compressing t := by
  rw [compressing, hfsm]
  cases h : s.mode with
  | none => exact absurd h hmode
  | pushing => simp only [afterFeedback, h]; split <;> decide
  | finishing => simp only [afterFeedback, h]; decide

/-- With a mode, where FEEDBACK goes is a matter of `mode` and `inq` alone. -/
theorem afterFeedback_congr {s t : State} (hmode : s.mode ≠ .none) (hm : t.mode = s.mode) (hq : t.inq = s.inq) :
    afterFeedback t = afterFeedback s := by
  rw [afterFeedback, afterFeedback, hm, hq]
  cases h : s.mode with
  | none => exact absurd h hmode
  | pushing | finishing => rfl

theorem feedbackStep_not_compressing {s : State} (hmode : s.mode ≠ .none) : ¬ compressing (feedbackStep s) :=
  afterFeedback_not_compressing hmode rfl

theorem busyStep_round {s : State} (r : Nat) (h : s.fsm = .round) : busyStep r s = roundsStep r s := by
  simp only [busyStep, h]

/-- A micro-step of a compression does not change where the compression leads. -/
theorem finishCompression_busyStep (r : Nat) {s : State} (h : compressing s) (hmode : s.mode ≠ .none) :
    finishCompression (busyStep r s) = finishCompression s := by
  obtain hload | hround | hfeedback := h
  · rw [busyStep_load r hload, finishCompression_round (loadStep_fsm s), finishCompression_load hload]
  · rw [busyStep_round r hround, finishCompression_round hround, ← roundsStep_64_roundsStep r hround]
    obtain ⟨hfsm, -⟩ | ⟨hfsm, -⟩ := roundsStep_fsm r hround
    · rw [roundsStep_of_ne 64 (by rw [hfsm]; decide), finishCompression_feedback hfsm]
    · rw [finishCompression_round hfsm]
  · rw [busyStep_feedback r hfeedback, finishCompression_of_not_compressing (feedbackStep_not_compressing hmode),
      finishCompression_feedback hfeedback]

/-- A micro-step of a compression brings its end nearer, by one if it is at most one round. -/
theorem compressionSteps_busyStep {r : Nat} (hr : 1 ≤ r) {s : State} (h : compressing s) (hmode : s.mode ≠ .none) :
    compressionSteps (busyStep r s) + 1 ≤ compressionSteps s ∧
      (r = 1 → compressionSteps (busyStep r s) + 1 = compressionSteps s) := by
  obtain hload | hround | hfeedback := h
  · rw [busyStep_load r hload]
    have ht : (loadStep s).t.toNat = 0 := rfl
    simp [compressionSteps, hload, ht]
  · have hlt := s.t.isLt
    rw [busyStep_round r hround]
    obtain ⟨hfsm, hlast⟩ | ⟨hfsm, hcount⟩ := roundsStep_fsm r hround
    · simp only [compressionSteps, hround, hfsm]
      omega
    · have hlt' := (roundsStep r s).t.isLt
      simp only [compressionSteps, hround, hfsm, hcount]
      omega
  · rw [busyStep_feedback r hfeedback, compressionSteps_of_not_compressing (feedbackStep_not_compressing hmode)]
    simp [compressionSteps, hfeedback]

/-- R602, R704: WriteByte, with the compression it starts if it completes a block, is AppendByte. -/
theorem finishCompression_writeByte {s : State} (b : Byte) (hmode : s.mode ≠ .none) (hfsm : s.fsm = afterFeedback s) :
    finishCompression (writeByte b s) = appendByte s b ∧
      compressionSteps (writeByte b s) = if s.numPending = 63 then 66 else 0 := by
  obtain ⟨hne, heq⟩ | ⟨hfull, heq⟩ := writeByte_cases s b
  · have hnot : ¬ compressing { storeByte b s with numPending := s.numPending + 1 } :=
      afterFeedback_not_compressing hmode hfsm
    rw [heq, finishCompression_of_not_compressing hnot, compressionSteps_of_not_compressing hnot, appendByte_of_ne hne,
      if_neg hne]
    exact ⟨rfl, rfl⟩
  · rw [heq, appendByte_of_eq hfull, if_pos hfull]
    refine ⟨?_, rfl⟩
    have hblock := feedbackStep_roundsStep_loadStep (s := { storeByte b s with fsm := .load }) hmode
    have hback : afterFeedback { storeByte b s with fsm := .load } = s.fsm :=
      (afterFeedback_congr (t := { storeByte b s with fsm := .load }) hmode rfl rfl).trans hfsm.symm
    rw [hback] at hblock
    refine hblock.trans ?_
    rw [storeByte, hfull]
    rfl

end Sys2Proof.Compressing
end

section
/-! PROOFS. The micro-steps of a command (R702 to R712): the micro-steps that are left and the state they lead to, as functions of any
state to which a rule applies; each micro-step takes one off the first and keeps the second; and the statements that follow. -/

namespace Sys2Proof.MicroSteps

open Sys2Proof.Machine Sys2Proof.Commands Sys2Proof.Padding Sys2Proof.Datapath Sys2Proof.Invariant Sys2Proof.Steps
  Sys2Proof.Ports Sys2Proof.Compressing

/-! ### The padding that is left (R653) -/

/-- The length bytes `k` to 0 (R653). -/
def lengthBytesFrom (L : BitVec 64) : Nat → List Byte
  | 0 => [lengthByte L 0]
  | k + 1 => lengthByte L (k + 1) :: lengthBytesFrom L k

/-- The padding bytes still to be appended where the padding FSM stands at `pad` with `np` bytes pending. -/
def paddingFrom (L : BitVec 64) (np : Nat) : Pad → List Byte
  | .none => []
  | .pad80 => paddingBytes np L
  | .padz => List.replicate ((56 + 64 - np) % 64) 0x00 ++ bytes64 L
  | .padlen k => lengthBytesFrom L k.val
  | .paddone => []

@[simp] theorem length_lengthBytesFrom (L : BitVec 64) (k : Nat) : (lengthBytesFrom L k).length = k + 1 := by
  induction k with
  | zero => rfl
  | succ k ih => rw [lengthBytesFrom, List.length_cons, ih]

/-- R651: the padding depends on the bytes pending alone. -/
theorem paddingBytes_mod (N : Nat) (L : BitVec 64) : paddingBytes (N % 64) L = paddingBytes N L := by
  rw [paddingBytes, paddingBytes, zeroCount, zeroCount, Nat.mod_mod]

/-- The byte a transition of the padding FSM writes is the first of the padding that is left. -/
theorem paddingFrom_of_padWrites {L : BitVec 64} {np : BitVec 6} {p q : Pad} {b : Byte} (h : PadWrites L np p b q) :
    paddingFrom L np.toNat p = b :: paddingFrom L ((np.toNat + 1) % 64) q := by
  have hlt := np.isLt
  cases h with
  | first =>
    have hzeros : zeroCount np.toNat = (56 + 64 - (np.toNat + 1) % 64) % 64 := by
      unfold zeroCount
      omega
    rw [paddingFrom, paddingFrom, paddingBytes, hzeros]
    rfl
  | zero hne =>
    have h56 : np.toNat ≠ 56 := fun h => hne (BitVec.eq_of_toNat_eq h)
    have hzeros : (56 + 64 - np.toNat) % 64 = (56 + 64 - (np.toNat + 1) % 64) % 64 + 1 := by omega
    rw [paddingFrom, paddingFrom, hzeros, List.replicate_succ]
    rfl
  | length k hk =>
    have hpred := Fin.val_sub_one_of_ne_zero hk
    have hpos := Fin.pos_iff_ne_zero.mpr hk
    obtain ⟨j, hj⟩ : ∃ j, k.val = j + 1 := ⟨k.val - 1, by omega⟩
    rw [paddingFrom, paddingFrom, hpred, hj, lengthBytesFrom, Nat.add_sub_cancel]
  | last => rfl

/-! ### The command in progress -/

/-- The bytes that the command in progress has still to append. -/
def bytesAhead (s : State) : List Byte :=
  match s.fsm with
  | .append => s.inq
  | .pad => paddingFrom s.L s.numPending.toNat s.pad
  | _ => []

/-- The micro-steps of the command in progress that append no byte: the end of PADZ, the end of PADDONE and CAPTURE (R653). -/
def closingSteps (s : State) : Nat :=
  match s.fsm with
  | .pad =>
    match s.pad with
    | .pad80 => 3
    | .padz => 3
    | _ => 2
  | .capture => 1
  | _ => 0

/-- The micro-steps of the command in progress, between compressions: one for each byte, 66 for each block completed (R711). -/
def commandSteps (s : State) : Nat :=
  (bytesAhead s).length + 66 * ((s.numPending.toNat + (bytesAhead s).length) / 64) + closingSteps s

/-- What the command in progress does once its bytes are appended (R704, R656). -/
def closeCommand (s : State) : State :=
  match s.fsm with
  | .append => { s with inq := [], fsm := .idle }
  | .pad => { captureDigest s with mode := .none, pad := .paddone, fsm := .idle }
  | .capture => captureStep s
  | _ => s

/-- The micro-steps up to IDLE, at one round a step. -/
def stepsToIdle (s : State) : Nat := compressionSteps s + commandSteps (finishCompression s)

/-- The state at IDLE that the micro-steps lead to. -/
def outcome (s : State) : State :=
  closeCommand (appendBytes (bytesAhead (finishCompression s)) (finishCompression s))

/-- A rule of the padding FSM applies, now and up to its end (R653). -/
def PadRunnable (np : Nat) : Pad → Prop
  | .none => False
  | .pad80 => True
  | .padz => True
  | .padlen k => np + k.val = 63
  | .paddone => np = 0

/-- Between compressions, a rule applies to the command in progress up to its end (R653, R704). -/
def CommandRunnable (s : State) : Prop :=
  match s.fsm with
  | .append => s.mode = .pushing ∧ s.inq ≠ [] ∧ s.inq.length ≤ 4
  | .pad => s.mode = .finishing ∧ PadRunnable s.numPending.toNat s.pad
  | _ => True

/-- A rule applies, up to IDLE: a mode says where FEEDBACK goes, and there the command in progress can go on. -/
def Runnable (s : State) : Prop := (compressing s → s.mode ≠ .none) ∧ CommandRunnable (finishCompression s)

/-! ### A micro-step that writes a byte (R704, R705) -/

theorem padRunnable_of_padWrites {L : BitVec 64} {np : BitVec 6} {p q : Pad} {b : Byte} (h : PadWrites L np p b q)
    (hrun : PadRunnable np.toNat p) : PadRunnable ((np.toNat + 1) % 64) q := by
  cases h with
  | first => trivial
  | zero => trivial
  | length k hk =>
    have hpred := Fin.val_sub_one_of_ne_zero hk
    have hpos := Fin.pos_iff_ne_zero.mpr hk
    simp only [PadRunnable] at hrun ⊢
    omega
  | last => simp only [PadRunnable, Fin.val_zero] at hrun ⊢; omega

/-- What a micro-step that writes the byte `b` leaves between compressions: `u` is the state with the control registers moved on. -/
structure WritesByte (b : Byte) (s u : State) : Prop where
  mode_ne : u.mode ≠ .none
  fsm_eq : u.fsm = afterFeedback u
  numPending_eq : u.numPending = s.numPending
  bytesAhead_eq : bytesAhead s = b :: bytesAhead (appendByte u b)
  closingSteps_eq : closingSteps (appendByte u b) = closingSteps s
  closeCommand_eq : ∀ bytes, closeCommand (appendBytes bytes (appendByte u b)) = closeCommand (appendBytes (b :: bytes) s)
  runnable : CommandRunnable (appendByte u b)

section
variable {b : Byte} {s u : State} (h : WritesByte b s u)
include h

theorem WritesByte.runnable_writeByte : Runnable (writeByte b u) := by
  refine ⟨fun _ => by simpa using h.mode_ne, ?_⟩
  rw [(finishCompression_writeByte b h.mode_ne h.fsm_eq).1]
  exact h.runnable

/-- The byte is appended, and if it completes a block the micro-steps of its compression are ahead. -/
theorem WritesByte.stepsToIdle_writeByte (hs : ¬ compressing s) : stepsToIdle (writeByte b u) + 1 = stepsToIdle s := by
  obtain ⟨hfinish, hsteps⟩ := finishCompression_writeByte b h.mode_ne h.fsm_eq
  have hlt := s.numPending.isLt
  have hnp := appendByte_numPending u b
  rw [h.numPending_eq] at hnp hsteps
  have h63 : s.numPending = 63 ↔ s.numPending.toNat = 63 := by rw [← BitVec.toNat_inj]; rfl
  rw [if_congr h63 rfl rfl] at hsteps
  rw [stepsToIdle, stepsToIdle, hfinish, hsteps, finishCompression_of_not_compressing hs,
    compressionSteps_of_not_compressing hs, commandSteps, commandSteps, h.bytesAhead_eq, h.closingSteps_eq, hnp,
    List.length_cons]
  split <;> omega

theorem WritesByte.outcome_writeByte (hs : ¬ compressing s) : outcome (writeByte b u) = outcome s := by
  rw [outcome, outcome, (finishCompression_writeByte b h.mode_ne h.fsm_eq).1, finishCompression_of_not_compressing hs,
    h.closeCommand_eq, ← h.bytesAhead_eq]

end

/-! ### APPEND and PAD (R704, R705) -/

/-- AppendByte neither reads nor writes the control registers (R602). -/
theorem appendBytes_control_comm (bytes : List Byte) (s : State) (f : Fsm) (m : Mode) (q : List Byte) (p : Pad) (L : BitVec 64) :
    appendBytes bytes { s with fsm := f, mode := m, inq := q, pad := p, L := L } =
      { appendBytes bytes s with fsm := f, mode := m, inq := q, pad := p, L := L } := by
  refine appendBytes_comm (f := fun s => { s with fsm := f, mode := m, inq := q, pad := p, L := L }) (fun s b => ?_) bytes s
  unfold appendByte
  dsimp only
  split <;> rfl

theorem appendBytes_inq_fsm_comm (bytes : List Byte) (s : State) (q : List Byte) (f : Fsm) :
    appendBytes bytes { s with inq := q, fsm := f } = { appendBytes bytes s with inq := q, fsm := f } := by
  simpa using appendBytes_control_comm bytes s f s.mode q s.pad s.L

theorem appendBytes_pad_comm (bytes : List Byte) (s : State) (p : Pad) :
    appendBytes bytes { s with pad := p } = { appendBytes bytes s with pad := p } := by
  simpa using appendBytes_control_comm bytes s s.fsm s.mode s.inq p s.L

theorem writesByte_append {s : State} {b : Byte} {rest : List Byte} (hfsm : s.fsm = .append) (hmode : s.mode = .pushing)
    (hinq : s.inq = b :: rest) (hlen : rest.length ≤ 3) :
    WritesByte b s { s with inq := rest, fsm := if rest.isEmpty then .idle else .append } where
  mode_ne := by simp [hmode]
  fsm_eq := by simp [afterFeedback, hmode]
  numPending_eq := rfl
  bytesAhead_eq := by
    cases rest <;> simp [bytesAhead, hfsm, hinq]
  closingSteps_eq := by
    cases rest <;> simp [closingSteps, hfsm]
  closeCommand_eq bytes := by
    rw [← appendBytes_cons, appendBytes_inq_fsm_comm]
    cases rest <;> simp [closeCommand, hfsm]
  runnable := by
    cases rest with
    | nil => simp [CommandRunnable]
    | cons c rest => simpa [CommandRunnable, hmode] using Nat.le_succ_of_le hlen

theorem writesByte_pad {s : State} {b : Byte} {p : Pad} (hfsm : s.fsm = .pad) (hmode : s.mode = .finishing)
    (hwrites : PadWrites s.L s.numPending s.pad b p) (hrun : PadRunnable s.numPending.toNat s.pad) :
    WritesByte b s { s with pad := p } where
  mode_ne := by simp [hmode]
  fsm_eq := by simp [afterFeedback, hmode, hfsm]
  numPending_eq := rfl
  bytesAhead_eq := by
    have hpadding := paddingFrom_of_padWrites hwrites
    rw [← appendByte_numPending { s with pad := p } b] at hpadding
    simpa [bytesAhead, hfsm] using hpadding
  closingSteps_eq := by
    simp only [closingSteps, appendByte_fsm, appendByte_pad, hfsm]
    generalize s.pad = q at hwrites
    cases hwrites <;> rfl
  closeCommand_eq bytes := by
    rw [← appendBytes_cons, appendBytes_pad_comm]
    simp [closeCommand, hfsm, captureDigest]
  runnable := by
    have hnext := padRunnable_of_padWrites hwrites hrun
    rw [← appendByte_numPending { s with pad := p } b] at hnext
    simpa [CommandRunnable, hfsm, hmode] using hnext

/-! ### Every micro-step -/

/-- What a micro-step of a busy engine does, `r` rounds a step: a rule still applies, the state at the end is the same, and the end is
nearer, by one if `r` is 1. -/
structure Advances (r : Nat) (s t : State) : Prop where
  runnable : Runnable t
  outcome_eq : outcome t = outcome s
  steps_le : stepsToIdle t + 1 ≤ stepsToIdle s
  steps_eq : r = 1 → stepsToIdle t + 1 = stepsToIdle s

theorem advances_writeByte {b : Byte} {s u : State} (r : Nat) (h : WritesByte b s u) (hs : ¬ compressing s) :
    Advances r s (writeByte b u) :=
  ⟨h.runnable_writeByte, h.outcome_writeByte hs, (h.stepsToIdle_writeByte hs).le, fun _ => h.stepsToIdle_writeByte hs⟩

theorem advances_compressing {r : Nat} (hr : 1 ≤ r) {s : State} (hs : compressing s) (hrun : Runnable s) :
    Advances r s (busyStep r s) := by
  have hmode := hrun.1 hs
  have hfinish := finishCompression_busyStep r hs hmode
  obtain ⟨hle, heq⟩ := compressionSteps_busyStep hr hs hmode
  have hkeep : (busyStep r s).mode = s.mode := by
    obtain h | h | h := hs <;> simp [busyStep, h]
  refine ⟨⟨fun _ => by rwa [hkeep], ?_⟩, ?_, ?_, fun h1 => ?_⟩
  · rw [hfinish]
    exact hrun.2
  · rw [outcome, hfinish, outcome]
  · rw [stepsToIdle, stepsToIdle, hfinish]
    omega
  · rw [stepsToIdle, stepsToIdle, hfinish, ← heq h1]
    omega

/-- Between compressions it is enough to look at the command in progress. -/
theorem advances_of_not_compressing {r : Nat} {s t : State} (hs : ¬ compressing s) (ht : ¬ compressing t)
    (hrun : CommandRunnable t)
    (houtcome : closeCommand (appendBytes (bytesAhead t) t) = closeCommand (appendBytes (bytesAhead s) s))
    (hsteps : commandSteps t + 1 = commandSteps s) : Advances r s t := by
  have hfinish := finishCompression_of_not_compressing ht
  have htotal : stepsToIdle t + 1 = stepsToIdle s := by
    rw [stepsToIdle, stepsToIdle, hfinish, finishCompression_of_not_compressing hs, compressionSteps_of_not_compressing hs,
      compressionSteps_of_not_compressing ht, Nat.zero_add, Nat.zero_add, hsteps]
  refine ⟨⟨fun h => absurd h ht, hfinish.symm ▸ hrun⟩, ?_, htotal.le, fun _ => htotal⟩
  rw [outcome, outcome, hfinish, finishCompression_of_not_compressing hs, houtcome]

theorem not_compressing_of_fsm {s : State} (h : s.fsm = .idle ∨ s.fsm = .append ∨ s.fsm = .pad ∨ s.fsm = .capture) :
    ¬ compressing s := by
  rw [compressing]
  obtain h | h | h | h := h <;> rw [h] <;> decide

theorem advances_appendStep (r : Nat) {s : State} (hfsm : s.fsm = .append) (hrun : Runnable s) :
    Advances r s (appendStep s) := by
  have hs := not_compressing_of_fsm (.inr (.inl hfsm))
  have hcommand := hrun.2
  simp only [finishCompression_of_not_compressing hs, CommandRunnable, hfsm] at hcommand
  obtain ⟨hmode, hne, hlen⟩ := hcommand
  obtain ⟨b, rest, hinq⟩ := List.exists_cons_of_ne_nil hne
  rw [appendStep_of_cons hinq]
  rw [hinq, List.length_cons] at hlen
  exact advances_writeByte r (writesByte_append hfsm hmode hinq (Nat.le_of_succ_le_succ hlen)) hs

theorem advances_padStep (r : Nat) {s : State} (hfsm : s.fsm = .pad) (hrun : Runnable s) : Advances r s (padStep s) := by
  have hs := not_compressing_of_fsm (.inr (.inr (.inl hfsm)))
  have hcommand := hrun.2
  simp only [finishCompression_of_not_compressing hs, CommandRunnable, hfsm] at hcommand
  obtain ⟨hmode, hpad⟩ := hcommand
  have hnone : s.pad ≠ .none := fun h => by rw [h] at hpad; exact hpad
  have hzero (h : s.pad = .paddone) : s.numPending = 0 := by
    rw [h] at hpad
    exact BitVec.eq_of_toNat_eq hpad
  obtain ⟨b, p, hwrites, heq⟩ | ⟨hpadz, h56, heq⟩ | ⟨hpaddone, h0, heq⟩ := padStep_cases hnone hzero <;> rw [heq]
  · exact advances_writeByte r (writesByte_pad hfsm hmode hwrites hpad) hs
  · have h56' : s.numPending.toNat = 56 := by rw [h56]; rfl
    have hahead : bytesAhead { s with pad := .padlen 7 } = bytesAhead s := by
      simp only [bytesAhead, hfsm, hpadz, h56']
      rfl
    refine advances_of_not_compressing hs hs ?_ ?_ ?_
    · simp only [CommandRunnable, hfsm]
      exact ⟨hmode, by rw [h56']; rfl⟩
    · rw [hahead, appendBytes_pad_comm]
      simp [closeCommand, hfsm, captureDigest]
    · rw [commandSteps, commandSteps, hahead]
      simp only [closingSteps, hfsm, hpadz]
  · have hahead : bytesAhead s = [] := by simp only [bytesAhead, hfsm, hpaddone, paddingFrom]
    refine advances_of_not_compressing hs (not_compressing_of_fsm (.inr (.inr (.inr rfl)))) trivial ?_ ?_
    · rw [hahead]
      simp [bytesAhead, closeCommand, hfsm, captureStep, captureDigest, appendBytes_nil, ← hpaddone]
    · rw [commandSteps, commandSteps, hahead, h0]
      simp [bytesAhead, closingSteps, hfsm, hpaddone]

theorem advances_captureStep (r : Nat) {s : State} (hfsm : s.fsm = .capture) : Advances r s (captureStep s) := by
  have hs := not_compressing_of_fsm (.inr (.inr (.inr hfsm)))
  refine advances_of_not_compressing hs (not_compressing_of_fsm (.inl rfl)) trivial ?_ ?_
  · simp [bytesAhead, closeCommand, hfsm, appendBytes_nil]
  · simp [commandSteps, bytesAhead, closingSteps, hfsm]

/-- R702: every micro-step of a busy engine to which a rule applies. -/
theorem advances_busyStep {r : Nat} (hr : 1 ≤ r) {s : State} (hbusy : s.fsm ≠ .idle) (hrun : Runnable s) :
    Advances r s (busyStep r s) := by
  cases hfsm : s.fsm with
  | idle => exact absurd hfsm hbusy
  | append => simpa only [busyStep, hfsm] using advances_appendStep r hfsm hrun
  | pad => simpa only [busyStep, hfsm] using advances_padStep r hfsm hrun
  | load => exact advances_compressing hr (.inl hfsm) hrun
  | round => exact advances_compressing hr (.inr (.inl hfsm)) hrun
  | feedback => exact advances_compressing hr (.inr (.inr hfsm)) hrun
  | capture => simpa only [busyStep, hfsm] using advances_captureStep r hfsm

theorem outcome_of_idle {s : State} (h : s.fsm = .idle) : outcome s = s := by
  rw [outcome, finishCompression_of_not_compressing (not_compressing_of_fsm (.inl h))]
  simp only [bytesAhead, closeCommand, h, appendBytes_nil]

theorem stepsToIdle_of_idle {s : State} (h : s.fsm = .idle) : stepsToIdle s = 0 := by
  have hs := not_compressing_of_fsm (.inl h)
  have hlt := s.numPending.isLt
  rw [stepsToIdle, finishCompression_of_not_compressing hs, compressionSteps_of_not_compressing hs]
  simpa [commandSteps, bytesAhead, closingSteps, h] using hlt

/-! ### Up to IDLE (R710, R711) -/

/-- The engine's own micro-steps take it to IDLE, busy until then, within `stepsToIdle` of them, in the state `outcome`. -/
theorem busySteps_reach_idle {r : Nat} (hr : 1 ≤ r) {s : State} (hrun : Runnable s) :
    ∃ n, n ≤ stepsToIdle s ∧ (r = 1 → n = stepsToIdle s) ∧ (busySteps r n s).fsm = .idle ∧ busySteps r n s = outcome s ∧
      ∀ m, m < n → busy (busySteps r m s) = true := by
  induction hsteps : stepsToIdle s using Nat.strong_induction_on generalizing s with
  | h steps ih =>
    by_cases hidle : s.fsm = .idle
    · exact ⟨0, Nat.zero_le _, fun _ => by rw [← hsteps, stepsToIdle_of_idle hidle], hidle, (outcome_of_idle hidle).symm,
        fun m hm => absurd hm (Nat.not_lt_zero m)⟩
    · obtain ⟨hnext, houtcome, hle, heq⟩ := advances_busyStep hr hidle hrun
      obtain ⟨n, hn, hone, hend, hstate, hbefore⟩ := ih _ (by omega) hnext rfl
      refine ⟨n + 1, by omega, fun h1 => by rw [hone h1, heq h1, hsteps], hend, hstate.trans houtcome, fun m hm => ?_⟩
      cases m with
      | zero => exact (busy_eq_true_iff s).mpr hidle
      | succ m => exact hbefore m (Nat.lt_of_succ_lt_succ hm)

/-! ### Where the micro-steps start (R703) -/

section
variable {bytes : List Byte} {s : State}

theorem runnable_startPush (hpos : 1 ≤ bytes.length) (hle : bytes.length ≤ 4) : Runnable (startPush bytes s) :=
  ⟨fun _ => by simp [startPush], rfl, List.ne_nil_of_length_pos hpos, hle⟩

/-- R711: a byte a micro-step, and 66 more for the block that a PUSH completes. -/
theorem stepsToIdle_startPush (hle : bytes.length ≤ 4) :
    stepsToIdle (startPush bytes s) =
      if s.numPending.toNat + bytes.length < 64 then bytes.length else bytes.length + 66 := by
  have hlt := s.numPending.isLt
  have hsteps : stepsToIdle (startPush bytes s) = 0 + (bytes.length + 66 * ((s.numPending.toNat + bytes.length) / 64) + 0) := rfl
  rw [hsteps]
  split <;> omega

theorem outcome_startPush (hidle : s.fsm = .idle) : outcome (startPush bytes s) = pushEffect bytes s := by
  have houtcome : outcome (startPush bytes s) = closeCommand (appendBytes bytes (startPush bytes s)) := rfl
  have happend : appendBytes bytes (startPush bytes s) = startPush bytes (appendBytes bytes s) := by
    simpa [startPush] using appendBytes_control_comm bytes s .append .pushing bytes s.pad s.L
  rw [houtcome, happend]
  simp [closeCommand, startPush, pushEffect, hidle]

theorem runnable_startFinish : Runnable (startFinish s) := ⟨fun _ => by simp [startFinish], rfl, trivial⟩

theorem bytesAhead_startFinish : bytesAhead (startFinish s) = paddingBytes (totalBytes s) (messageBits s) := by
  rw [← paddingBytes_mod, totalBytes_mod]
  rfl

/-- R711: the bytes of the padding, three steps that append none, and 66 for each block. -/
theorem stepsToIdle_startFinish :
    stepsToIdle (startFinish s) = 9 + zeroCount (totalBytes s) + 3 + 66 * (if totalBytes s % 64 < 56 then 1 else 2) := by
  have hlt := s.numPending.isLt
  have hmod := totalBytes_mod s
  have hsteps : stepsToIdle (startFinish s) = 0 + ((bytesAhead (startFinish s)).length +
    66 * ((s.numPending.toNat + (bytesAhead (startFinish s)).length) / 64) + 3) := rfl
  rw [hsteps, bytesAhead_startFinish, paddingBytes_length, zeroCount, hmod]
  split <;> omega

theorem outcome_startFinish (hidle : s.fsm = .idle) : outcome (startFinish s) = finalize s := by
  have houtcome : outcome (startFinish s) = closeCommand (appendBytes (bytesAhead (startFinish s)) (startFinish s)) := rfl
  have happend (bytes : List Byte) : appendBytes bytes (startFinish s) =
      { appendBytes bytes s with fsm := .pad, mode := .finishing, pad := .pad80, L := messageBits s } := by
    simpa [startFinish] using appendBytes_control_comm bytes s .pad .finishing s.inq .pad80 (messageBits s)
  rw [houtcome, happend, bytesAhead_startFinish]
  simp [closeCommand, finalize, captureDigest, hidle]

end

/-! ### The safe states (R119) -/

theorem padRunnable_of_padStage {N c : Nat} {p : Pad} (h : PadStage N c p) : PadRunnable (c % 64) p := by
  have hzeros := add_zeroCount_mod N
  cases p with
  | none => exact h
  | pad80 => trivial
  | padz => trivial
  | padlen k =>
    have hlt := k.isLt
    simp only [PadStage] at h
    simp only [PadRunnable]
    omega
  | paddone => exact mod_eq_zero_of_padStage_paddone h

/-- Where FEEDBACK leads, the command in progress can go on. -/
theorem commandRunnable_of_canContinue {s t : State} (hgo : CanContinue (totalBytes s + 1) s) (hfull : s.numPending = 63)
    (hfsm : t.fsm = afterFeedback s) (hmode : t.mode = s.mode) (hinq : t.inq = s.inq) (hpad : t.pad = s.pad)
    (hnp : t.numPending = 0) : CommandRunnable t := by
  obtain ⟨-, ⟨hpush, hlen, -⟩ | ⟨hfinish, hprogress⟩⟩ := hgo
  · cases hbytes : s.inq with
    | nil => simp [CommandRunnable, hfsm, afterFeedback, hpush, hbytes]
    | cons b rest =>
      rw [hbytes, List.length_cons] at hlen
      simp [CommandRunnable, hfsm, afterFeedback, hpush, hmode, hinq, hbytes]
      omega
  · have hstage := padRunnable_of_padStage ((padProgress_iff _ s).mp hprogress).2
    have hboundary : (totalBytes s + 1) % 64 = 0 := by
      have hmod := totalBytes_mod s
      rw [hfull] at hmod
      have h63 : (63 : BitVec 6).toNat = 63 := rfl
      omega
    rw [hboundary] at hstage
    simpa [CommandRunnable, hfsm, afterFeedback, hfinish, hmode, hpad, hnp] using hstage

theorem finishCompression_keeps {s : State} (hs : compressing s) (hmode : s.mode ≠ .none) :
    (finishCompression s).fsm = afterFeedback s ∧ (finishCompression s).mode = s.mode ∧ (finishCompression s).inq = s.inq ∧
      (finishCompression s).pad = s.pad ∧ (finishCompression s).numPending = 0 := by
  have hkeep {u : State} (hm : u.mode = s.mode) (hq : u.inq = s.inq) (hp : u.pad = s.pad) :
      (feedbackStep u).fsm = afterFeedback s ∧ (feedbackStep u).mode = s.mode ∧ (feedbackStep u).inq = s.inq ∧
        (feedbackStep u).pad = s.pad ∧ (feedbackStep u).numPending = 0 :=
    ⟨afterFeedback_congr hmode hm hq, hm, hq, hp, rfl⟩
  obtain h | h | h := hs
  · rw [finishCompression_load h]
    exact hkeep (by simp) (by simp) (by simp)
  · rw [finishCompression_round h]
    exact hkeep (by simp) (by simp) (by simp)
  · rw [finishCompression_feedback h]
    exact hkeep rfl rfl rfl

theorem runnable_of_safeState {s : State} (hsafe : safeState s = true) : Runnable s := by
  by_cases hs : compressing s
  · obtain ⟨-, hfull, hgo⟩ := (safeState_compressing_iff hs).mp hsafe
    have hmode : s.mode ≠ .none := by
      obtain ⟨-, ⟨h, -⟩ | ⟨h, -⟩⟩ := hgo <;> rw [h] <;> decide
    obtain ⟨hfsm, hm, hinq, hpad, hnp⟩ := finishCompression_keeps hs hmode
    exact ⟨fun _ => hmode, commandRunnable_of_canContinue hgo hfull hfsm hm hinq hpad hnp⟩
  · refine ⟨fun h => absurd h hs, ?_⟩
    rw [finishCompression_of_not_compressing hs]
    cases hfsm : s.fsm with
    | idle | capture => simp only [CommandRunnable, hfsm]
    | append =>
      obtain ⟨-, -, hmode, hne, hlen, -⟩ := (safeState_append_iff hfsm).mp hsafe
      simp only [CommandRunnable, hfsm]
      exact ⟨hmode, hne, hlen⟩
    | pad =>
      obtain ⟨-, -, hmode, hprogress⟩ := (safeState_pad_iff hfsm).mp hsafe
      have hpad := padRunnable_of_padStage ((padProgress_iff _ s).mp hprogress).2
      rw [totalBytes_mod] at hpad
      simp only [CommandRunnable, hfsm]
      exact ⟨hmode, hpad⟩
    | load => exact absurd (.inl hfsm) hs
    | round => exact absurd (.inr (.inl hfsm)) hs
    | feedback => exact absurd (.inr (.inr hfsm)) hs

/-- R711: the length of what is ahead, by where the padding FSM stands. -/
theorem padSteps_le {L : BitVec 64} {np : Nat} {p : Pad} (hlt : np < 64) (hrun : PadRunnable np p) :
    (paddingFrom L np p).length + 66 * ((np + (paddingFrom L np p).length) / 64) + 3 ≤ 207 ∧
      (np = 0 → (paddingFrom L np p).length + 66 * ((np + (paddingFrom L np p).length) / 64) + 3 ≤ 141) := by
  cases p with
  | none => exact absurd hrun id
  | pad80 =>
    rw [paddingFrom, paddingBytes_length, zeroCount]
    omega
  | padz =>
    have hlength : (paddingFrom L np .padz).length = (56 + 64 - np) % 64 + 8 := by simp [paddingFrom, bytes64]
    rw [hlength]
    omega
  | padlen k =>
    have hk := k.isLt
    simp only [PadRunnable] at hrun
    rw [paddingFrom, length_lengthBytesFrom]
    omega
  | paddone =>
    simp only [PadRunnable] at hrun
    rw [paddingFrom, List.length_nil]
    omega

theorem closingSteps_le (s : State) : closingSteps s ≤ 3 := by
  unfold closingSteps
  split
  · split <;> decide
  · decide
  · decide

/-- R711: no command in progress has more ahead than a FINISH at its start, and behind a compression no more than one block. -/
theorem commandSteps_le {s : State} (hrun : CommandRunnable s) :
    commandSteps s ≤ 207 ∧ (s.numPending.toNat = 0 → commandSteps s ≤ 141) := by
  have hlt := s.numPending.isLt
  have hclosing := closingSteps_le s
  have hnone (h : bytesAhead s = []) : commandSteps s ≤ 207 ∧ (s.numPending.toNat = 0 → commandSteps s ≤ 141) := by
    rw [commandSteps, h, List.length_nil]
    omega
  cases hfsm : s.fsm with
  | append =>
    simp only [CommandRunnable, hfsm] at hrun
    obtain ⟨-, -, hlen⟩ := hrun
    have hahead : bytesAhead s = s.inq := by simp only [bytesAhead, hfsm]
    rw [commandSteps, hahead]
    omega
  | pad =>
    simp only [CommandRunnable, hfsm] at hrun
    have hpad := padSteps_le (L := s.L) hlt hrun.2
    have hahead : bytesAhead s = paddingFrom s.L s.numPending.toNat s.pad := by simp only [bytesAhead, hfsm]
    rw [commandSteps, hahead]
    omega
  | idle | load | round | feedback | capture => exact hnone (by simp only [bytesAhead, hfsm])

theorem compressionSteps_le (s : State) : compressionSteps s ≤ 66 := by
  unfold compressionSteps
  split <;> omega

theorem stepsToIdle_le {s : State} (hrun : Runnable s) : stepsToIdle s ≤ 207 := by
  obtain ⟨hle, hempty⟩ := commandSteps_le hrun.2
  have hcompression := compressionSteps_le s
  rw [stepsToIdle]
  by_cases hs : compressing s
  · obtain ⟨-, -, -, -, hnp⟩ := finishCompression_keeps hs (hrun.1 hs)
    have hbound := hempty (by rw [hnp]; rfl)
    omega
  · rw [compressionSteps_of_not_compressing hs]
    omega

/-! ### The statements -/

/-- Settles O41: the micro-steps of an accepted PUSH lead to IDLE in `outcome`, which is its transaction-level effect. -/
theorem pushMicroStepsRefineTransaction : Obligations.PushMicroStepsRefineTransaction := by
  intro r bytes s hr hwf hidle hdone hroom
  obtain ⟨hpos, hle⟩ : 1 ≤ bytes.length ∧ bytes.length ≤ 4 := by simpa [Instr.wf] using hwf
  obtain ⟨n, hn, -, hend, hstate, -⟩ := busySteps_reach_idle hr (runnable_startPush (s := s) hpos hle)
  rw [stepsToIdle_startPush hle] at hn
  rw [acceptCommand_push_of_room hdone hroom]
  refine ⟨n, by split at hn <;> omega, hend, ?_⟩
  rw [exec_push_of_room hdone hroom, hstate, outcome_startPush hidle]

/-- Settles O42: the micro-steps of an accepted FINISH lead to IDLE in `outcome`, which is its transaction-level effect. -/
theorem finishMicroStepsRefineTransaction : Obligations.FinishMicroStepsRefineTransaction := by
  intro r s hr hidle hdone
  obtain ⟨n, hn, -, hend, hstate, -⟩ := busySteps_reach_idle hr (runnable_startFinish (s := s))
  rw [acceptCommand_finish_of_not_done hdone]
  refine ⟨n, hn.trans (stepsToIdle_le runnable_startFinish), hend, ?_⟩
  rw [exec_finish_of_not_done hdone, hstate, outcome_startFinish hidle]

/-- Settles O44: at one round a step the engine is busy for exactly `stepsToIdle` micro-steps. -/
theorem referenceMicroStepCounts : Obligations.ReferenceMicroStepCounts := by
  refine ⟨fun bytes s hwf hidle hdone hroom => ?push, fun s hidle hdone _ => ?finish⟩
  case push =>
    obtain ⟨hpos, hle⟩ : 1 ≤ bytes.length ∧ bytes.length ≤ 4 := by simpa [Instr.wf] using hwf
    obtain ⟨n, -, hcount, hend, -, hbusy⟩ := busySteps_reach_idle (Nat.le_refl 1) (runnable_startPush (s := s) hpos hle)
    rw [acceptCommand_push_of_room hdone hroom, ← stepsToIdle_startPush hle, ← hcount rfl]
    exact ⟨hend, hbusy⟩
  case finish =>
    obtain ⟨n, -, hcount, hend, -, hbusy⟩ := busySteps_reach_idle (Nat.le_refl 1) (runnable_startFinish (s := s))
    dsimp only
    rw [acceptCommand_finish_of_not_done hdone, ← stepsToIdle_startFinish, ← hcount rfl]
    exact ⟨hend, hbusy⟩

/-- Settles O45: a rule applies in every safe state, up to IDLE. -/
theorem busyEngineReachesIdle : Obligations.BusyEngineReachesIdle := by
  intro r s hr hsafe
  have hrun := runnable_of_safeState hsafe
  obtain ⟨n, hn, -, hend, -, -⟩ := busySteps_reach_idle hr hrun
  exact ⟨n, hn.trans (stepsToIdle_le hrun), hend⟩

end Sys2Proof.MicroSteps
end

section
/-! PROOFS. Runs (R309, R310, R909, R912): what a WAIT runs through, that a run without a reset ends, what the library's finish delivers,
and the statements that follow. -/

namespace Sys2Proof.Runs

open Sys2Proof.Machine Sys2Proof.Commands Sys2Proof.Padding Sys2Proof.Exceptions Sys2Proof.Encoding Sys2Proof.Invariant
  Sys2Proof.Steps Sys2Proof.Safety Sys2Proof.Hashing Sys2Proof.Ports Sys2Proof.Compressing Sys2Proof.MicroSteps

/-- R712: at least one round a step. -/
theorem one_le_roundsPerStep : 1 ≤ Config.roundsPerStep := Nat.le_add_left 1 _

/-! ### WAIT (R309) -/

@[simp] theorem busySteps_inputs (r n : Nat) (s : State) : (busySteps r n s).inputs = s.inputs := by
  induction n generalizing s with
  | zero => rfl
  | succ n ih => rw [busySteps, ih, busyStep_inputs]

/-- The micro-step does not look at what was read, nor at how often. -/
theorem busyStep_reads (r : Nat) (s : State) (v : Word) (n : Nat) :
    busyStep r { s with rdata := v, draws := n } = { busyStep r s with rdata := v, draws := n } := by
  simpa using busyStep_hostSide r s s.inputs v n

/-- Each step of a WAIT in a busy engine is one read of STATUS and one micro-step. -/
theorem run_waitIdle_busy {s : State} {rest : List HostMove} (hsafe : safeState s = true) (hin : s.inputs = .waitIdle :: rest)
    (m : Nat) (hbusy : ∀ j, j < m → busy (busySteps Config.roundsPerStep j s) = true) :
    ∃ v, Host.Core.run core m s = .next { busySteps Config.roundsPerStep m s with rdata := v, draws := s.draws + m } ∧
      (1 ≤ m → v.getLsbD 0 = true) := by
  induction m with
  | zero => exact ⟨s.rdata, rfl, fun h => absurd h (by decide)⟩
  | succ m ih =>
    obtain ⟨v, hrun, -⟩ := ih fun j hj => hbusy j (Nat.lt_succ_of_lt hj)
    set u : State := { busySteps Config.roundsPerStep m s with rdata := v, draws := s.draws + m }
    have hbusyu : busy u = true := hbusy m (Nat.lt_succ_self m)
    have hstop : stopReason u = none := stopReason_of_safeState (s := u) (safeState_busySteps _ m hsafe)
    have hstep := step_waitIdle_of_busy (s := u) ((busySteps_inputs _ m s).trans hin) hstop hbusyu
    refine ⟨readPort u.draws u 0, ?_, fun _ => (readPort_status_busy u.draws u).trans hbusyu⟩
    rw [run_add m 1 hrun, run_succ 0 hstep, run_zero, engineStep, busyStep_reads, Datapath.busySteps_succ]
    rfl

/-- R309: a WAIT runs through the busy micro-steps of the engine, and ends with STATUS delivered. -/
theorem run_waitIdle {s : State} {rest : List HostMove} (hsafe : safeState s = true) (hin : s.inputs = .waitIdle :: rest) :
    ∃ n, n ≤ stepsToIdle s ∧ (∀ m, m < n → busy (busySteps Config.roundsPerStep m s) = true) ∧
      (outcome s).fsm = .idle ∧ busySteps Config.roundsPerStep n s = outcome s ∧
      Host.Core.run core (n + 1) s =
        .next { outcome s with inputs := rest, rdata := statusWord (outcome s), draws := s.draws + n + 1 } := by
  obtain ⟨n, hn, -, hidle, hstate, hbusy⟩ := busySteps_reach_idle one_le_roundsPerStep (runnable_of_safeState hsafe)
  obtain ⟨v, hrun, -⟩ := run_waitIdle_busy hsafe hin n hbusy
  have hsafe' := safeState_busySteps Config.roundsPerStep n hsafe
  have hin' := (busySteps_inputs Config.roundsPerStep n s).trans hin
  rw [hstate] at hrun hidle hsafe' hin'
  have hstep := step_waitIdle_of_idle (s := { outcome s with rdata := v, draws := s.draws + n }) hin'
    (stopReason_of_safeState hsafe') ((busy_eq_false_iff _).mpr hidle)
  exact ⟨n, hn, hbusy, hidle, hstate, (run_add n 1 hrun).trans (run_succ 0 hstep)⟩

/-! ### A run without a reset ends (R912) -/

theorem noReset_iff (s : State) : noReset s = true ↔ .reset ∉ s.inputs := by
  simp only [noReset, List.all_eq_true]
  constructor
  · exact fun h hm => Bool.false_ne_true (h _ hm)
  · intro h m hm
    cases m with
    | reset => exact absurd hm h
    | present _ | read _ | wait | waitIdle => rfl

theorem commandEffect_inputs {i : Instr} {s t : State} (h : CommandEffect s i t) : t.inputs = s.inputs := by
  cases h with
  | error | push | finish => simp
  | nop | init | clrerr | startPush | startFinish => rfl

theorem acceptWord_inputs {cw : CommandWord} {s t : State} (h : acceptWord cw s = .next t) : t.inputs = s.inputs := by
  obtain ⟨-, rfl⟩ | ⟨i, -, heffect⟩ := acceptWord_cases h
  · exact raiseError_inputs _ s
  · exact commandEffect_inputs heffect

/-- The engine's own step brings a busy engine nearer to IDLE. -/
theorem stepsToIdle_engineStep_lt {s : State} (hsafe : safeState s = true) (hbusy : busy s = true) :
    stepsToIdle (engineStep s) < stepsToIdle s :=
  (advances_busyStep one_le_roundsPerStep ((busy_eq_true_iff s).mp hbusy) (runnable_of_safeState hsafe)).steps_le

/-- The compression in progress does not look at the host's side either. -/
theorem sameEngine_finishCompression {s t : State} (h : SameEngine t s) :
    SameEngine (finishCompression t) (finishCompression s) := by
  have hrounds {u : State} (hfsm : u.fsm = .round) (moves : List HostMove) (v : Word) (n : Nat) :
      SameEngine (feedbackStep (roundsStep 64 { u with inputs := moves, rdata := v, draws := n }))
        (feedbackStep (roundsStep 64 u)) := by
    rw [← busyStep_round 64 (s := { u with inputs := moves, rdata := v, draws := n }) hfsm, busyStep_hostSide,
      busyStep_round 64 hfsm]
    rfl
  have ht : t.fsm = s.fsm := by rw [h]
  cases hfsm : s.fsm with
  | load =>
    have hload : loadStep t = { loadStep s with inputs := t.inputs, rdata := t.rdata, draws := t.draws } := by rw [h]; rfl
    rw [finishCompression_load (ht.trans hfsm), finishCompression_load hfsm, hload]
    exact hrounds (loadStep_fsm s) _ _ _
  | round =>
    rw [finishCompression_round (ht.trans hfsm), finishCompression_round hfsm, h]
    exact hrounds hfsm _ _ _
  | feedback =>
    rw [finishCompression_feedback (ht.trans hfsm), finishCompression_feedback hfsm, h]
    rfl
  | idle | append | pad | capture =>
    have hs : ¬ compressing s := not_compressing_of_fsm (by simp [hfsm])
    rw [finishCompression_of_not_compressing hs, finishCompression_of_not_compressing (by simpa [compressing, ht] using hs)]
    exact h

/-- The micro-steps that are ahead do not depend on the host. -/
theorem stepsToIdle_of_sameEngine {s t : State} (h : SameEngine t s) : stepsToIdle t = stepsToIdle s := by
  have hcompression : compressionSteps t = compressionSteps s := by rw [h]; rfl
  have hcommand {u v : State} (huv : SameEngine u v) : commandSteps u = commandSteps v := by rw [huv]; rfl
  rw [stepsToIdle, stepsToIdle, hcompression, hcommand (sameEngine_finishCompression h)]

/-- A step of a run that has not ended takes a move off the host's, or brings a busy engine nearer to IDLE. -/
theorem step_progress {s t : State} (hsafe : safeState s = true) (hreset : noReset s = true) (hopen : runEnded s = false)
    (hstep : step s = .next t) :
    (t.inputs = s.inputs ∧ stepsToIdle t < stepsToIdle s) ∨ ∃ m, s.inputs = m :: t.inputs := by
  have hengine (hbusy : busy s = true) : (engineStep s).inputs = s.inputs ∧ stepsToIdle (engineStep s) < stepsToIdle s :=
    ⟨busyStep_inputs _ s, stepsToIdle_engineStep_lt hsafe hbusy⟩
  obtain ⟨rest, hin, -⟩ | ⟨-, ⟨_, _, -, hbusy, rfl⟩ | ⟨cw, rest, hin, -, haccept⟩ | ⟨_, rest, hin, rfl⟩ | ⟨rest, hin, rfl⟩ |
    ⟨rest, hin, rfl⟩ | ⟨hin, rfl⟩⟩ := step_cases hstep
  · exact absurd (hin ▸ List.mem_cons_self) ((noReset_iff s).mp hreset)
  · exact .inl (hengine hbusy)
  · exact .inr ⟨_, by rw [acceptWord_inputs haccept, hin]⟩
  · exact .inr ⟨_, hin⟩
  · exact .inr ⟨_, by rw [engineStep, busyStep_inputs, hin]⟩
  · cases hbusy : busy s with
    | true =>
      obtain ⟨hinputs, hlt⟩ := hengine hbusy
      have hsame : SameEngine (pollStatus rest s) (engineStep s) := by
        rw [pollStatus_of_busy rest hbusy]
        rfl
      refine .inl ⟨?_, (stepsToIdle_of_sameEngine hsame).trans_lt hlt⟩
      rw [pollStatus_of_busy rest hbusy]
      exact hinputs
    | false =>
      rw [pollStatus_of_idle rest hbusy]
      exact .inr ⟨_, hin⟩
  · refine .inl (hengine ?_)
    rw [runEnded, allAccepted, hin] at hopen
    simpa using hopen

/-- R912: the run ends, within 208 steps for each move and the micro-steps that are ahead. -/
theorem exists_runEndsAt {s : State} (hsafe : safeState s = true) (hreset : noReset s = true) :
    ∃ k t, k ≤ 208 * s.inputs.length + stepsToIdle s ∧ runEndsAt k s t := by
  induction hbound : 208 * s.inputs.length + stepsToIdle s using Nat.strong_induction_on generalizing s with
  | h bound ih =>
    cases hended : runEnded s with
    | true => exact ⟨0, s, Nat.zero_le _, rfl, hended, fun m hm => absurd hm (Nat.not_lt_zero m)⟩
    | false =>
      obtain ⟨u, hstep⟩ := safeStatesNeverStop s hsafe
      have hsafeu := everyStepKeepsSafeStates s u hsafe hstep
      obtain ⟨hlt, hresetu⟩ :
          208 * u.inputs.length + stepsToIdle u < 208 * s.inputs.length + stepsToIdle s ∧ noReset u = true := by
        rw [noReset_iff] at hreset ⊢
        obtain ⟨hin, hlt⟩ | ⟨m, hin⟩ := step_progress hsafe ((noReset_iff s).mpr hreset) hended hstep
        · rw [hin]
          exact ⟨Nat.add_lt_add_left hlt _, hreset⟩
        · have hle := stepsToIdle_le (runnable_of_safeState hsafeu)
          rw [hin] at hreset ⊢
          rw [List.length_cons]
          exact ⟨by omega, fun h => hreset (List.mem_cons_of_mem m h)⟩
      obtain ⟨k, t, hk, hrun, hend, hbefore⟩ := ih _ (hbound ▸ hlt) hsafeu hresetu rfl
      refine ⟨k + 1, t, by omega, (run_succ k hstep).trans hrun, hend, fun m hm => ?_⟩
      cases m with
      | zero => exact ⟨s, rfl, hended⟩
      | succ m =>
        rw [run_succ m hstep]
        exact hbefore m (Nat.lt_of_succ_lt_succ hm)

/-! ### The library's finish (R310) -/

/-- FINISH presented to a launch state in the ACCEPT phase, at either level: the step leads to a safe state from which the engine
reaches what FINISH gives whole. -/
theorem step_finish {s : State} {rest : List HostMove} (hlaunch : launchState s = true) (hdone : s.done = false)
    (hin : s.inputs = .present (encode .finish) :: rest) :
    ∃ t, step s = .next t ∧ safeState t = true ∧ t.inputs = rest ∧ outcome t = finalize { s with inputs := rest } := by
  obtain ⟨hidle, hsafe⟩ := (launchState_iff s).mp hlaunch
  have hdecode : decode (encode .finish) = .ok .finish := decodeEncodeRoundTrip .finish rfl
  obtain ⟨t, hstep, hin', houtcome⟩ : ∃ t, step s = .next t ∧ t.inputs = rest ∧ outcome t = finalize { s with inputs := rest } := by
    obtain hlevel | hlevel : s.level = .transaction ∨ s.level = .micro := by cases s.level <;> simp
    · rw [stepRunsAcceptedCommand s _ rest _ hlaunch hlevel hin hdecode,
        exec_finish_of_not_done (s := { s with inputs := rest }) hdone]
      exact ⟨_, rfl, finalize_inputs _, outcome_of_idle ((finalize_fsm _).trans hidle)⟩
    · rw [microStepAcceptsCommand s _ rest _ hlaunch hlevel hin hdecode,
        acceptCommand_finish_of_not_done (s := { s with inputs := rest }) hdone]
      exact ⟨_, rfl, rfl, outcome_startFinish (s := { s with inputs := rest }) hidle⟩
  exact ⟨t, hstep, everyStepKeepsSafeStates s t hsafe hstep, hin', houtcome⟩

/-- The eight reads of `libraryFinish`. -/
def digestReads : List (BitVec 4) := (List.finRange 8).map digestAddr

theorem libraryFinish_eq :
    libraryFinish = .present (encode .finish) :: .waitIdle :: digestReads.map HostMove.read := rfl

theorem drop_libraryFinish (i : Nat) : libraryFinish.drop (3 + i) = (digestReads.drop (i + 1)).map HostMove.read := by
  rw [libraryFinish_eq, Nat.add_comm, List.drop_succ_cons, List.drop_succ_cons, List.map_drop]

/-- The reads up to that of DIGESTi, which is the last of them, and the reads after it. -/
theorem digestReads_split (i : Fin 8) :
    digestReads = (digestReads.take i.val ++ [digestAddr i]) ++ digestReads.drop (i.val + 1) := by
  have hi : i.val < digestReads.length := i.isLt
  have hget : digestReads[i.val] = digestAddr i := by simp [digestReads]
  rw [← hget, List.take_append_getElem hi, List.take_append_drop]

/-! ### The statements -/

/-- Settles O52: the run ends, and at BUSY = 0 the port shows the registers. -/
theorem runOfCommandsEnds : Obligations.RunOfCommandsEnds := by
  intro s hsafe hreset
  obtain ⟨k, t, hk, hends⟩ := exists_runEndsAt hsafe hreset
  have hle := stepsToIdle_le (runnable_of_safeState hsafe)
  obtain ⟨-, hidle⟩ := (runEnded_iff t).mp hends.2.1
  refine ⟨k, t, by omega, hends, ?_⟩
  simp only [readAll, readPort_of_idle hidle]

/-- Settles O54: the WAIT takes as many micro-steps as the engine is busy for. -/
theorem waitReadsStatusUntilNotBusy : Obligations.WaitReadsStatusUntilNotBusy := by
  intro s rest hsafe hin
  obtain ⟨n, hn, hbusy, hidle, hstate, hrun⟩ := run_waitIdle hsafe hin
  refine ⟨n, hn.trans (stepsToIdle_le (runnable_of_safeState hsafe)), ⟨fun h => ?atOnce, fun h => ?boundary⟩, fun m hm =>
    ⟨hbusy m hm, ?polls⟩, ?ends⟩
  case atOnce =>
    rw [stepsToIdle_of_idle h] at hn
    exact Nat.le_zero.mp hn
  case boundary =>
    rw [← hstate, h] at hidle
    exact hidle
  case polls =>
    obtain ⟨v, hpoll, hbit⟩ := run_waitIdle_busy hsafe hin (m + 1) fun j hj => hbusy j (by omega)
    exact ⟨_, hpoll, busySteps_inputs _ _ s, hbit (Nat.succ_pos m)⟩
  case ends =>
    rw [hstate]
    exact ⟨hidle, (statusWord_busy _).trans ((busy_eq_false_iff _).mpr hidle), hrun⟩

/-- Settles O55: after FINISH and WAIT the engine is at IDLE with the digest captured, which the reads deliver. -/
theorem libraryFinishDeliversTheDigest : Obligations.LibraryFinishDeliversTheDigest := by
  intro s rest i hlaunch hdone hin
  set reads : List (BitVec 4) := digestReads.take i.val ++ [digestAddr i]
  set later : List HostMove := (digestReads.drop (i.val + 1)).map HostMove.read ++ rest
  have hmoves : digestReads.map HostMove.read ++ rest = reads.map HostMove.read ++ later := by
    rw [digestReads_split i, List.map_append, List.append_assoc]
  obtain ⟨t, hstep, hsafe, hint, houtcome⟩ := step_finish hlaunch hdone (hin.trans (by rw [libraryFinish_eq]; rfl))
  obtain ⟨n, -, -, hidle, hstate, hwait⟩ := run_waitIdle hsafe hint
  have hsafe' := safeState_busySteps Config.roundsPerStep n hsafe
  rw [hstate] at hsafe'
  obtain ⟨u, hreads, hu, hvalue⟩ := run_reads (s := { outcome t with
    inputs := digestReads.map HostMove.read ++ rest, rdata := statusWord (outcome t), draws := t.draws + n + 1 })
    hsafe' reads hmoves
  refine ⟨(n + 1 + reads.length) + 1, u, ?run, ?moves, ?value, ?done, ?busy, ?digest⟩
  case run => exact (run_succ _ hstep).trans ((run_add _ _ hwait).trans hreads)
  case moves =>
    rw [hu, drop_libraryFinish]
  case value =>
    rw [hvalue _ _ rfl, readPort_of_idle (by exact hidle), registerRead_digestAddr, hu]
  case done => rw [hu]; exact houtcome ▸ rfl
  case busy => rw [hu]; exact (busy_eq_false_iff _).mpr hidle
  case digest =>
    rw [hu]
    show (outcome t).digest = _
    rw [houtcome, finalize_digest, finalize_state]
    rfl

end Sys2Proof.Runs
end
